-- ==== Sys2Proof/Word.lean ====
section
/-! DEFINITION. The word types of the CHIP-8 core (spec 00_scope.md R9, R15): every value is an unsigned integer of a fixed width. -/

namespace Sys2Proof

/-- A `u8`: a byte of memory, a V register, a timer (R15, R31, R41). -/
abbrev Byte := BitVec 8

/-- A `u16`: an opcode word, `I`, `PC`, a return address (R15, R34, R35, R38). -/
abbrev Word := BitVec 16

/-- A 4-bit field: N, or a key number (R91). -/
abbrev Nibble := BitVec 4

/-- A 4-bit register selector, X or Y of an opcode (R91). -/
abbrev RegSel := BitVec 4

/-- A 12-bit address field, NNN of an opcode (R91). -/
abbrev Addr12 := BitVec 12

end Sys2Proof
end

