-- ==== Sys2Proof/Syntax.lean ====
section
/-! DEFINITION. The 35 operations of base CHIP-8 (spec 30_encoding.md R95; spec/opcode_table.json), one constructor a row. -/

namespace Sys2Proof

/-- An instruction with the fields its format gives it (30_encoding.md R93): `x`, `y` are register selectors, `n` a 4-bit
count, `nn` an 8-bit immediate, `nnn` a 12-bit address. The constructors stand in the table's order. -/
inductive Instr where
  /-- 00E0 CLS, clear the display (R200). -/
  | cls
  /-- 00EE RET, return from subroutine (R131). -/
  | ret
  /-- 0NNN SYS, a no-op (R130); not the words of CLS and RET (R96). -/
  | sys (nnn : Addr12)
  /-- 1NNN JP (R132). -/
  | jp (nnn : Addr12)
  /-- 2NNN CALL (R133). -/
  | call (nnn : Addr12)
  /-- 3XNN SE VX, NN (R134). -/
  | seImm (x : RegSel) (nn : Byte)
  /-- 4XNN SNE VX, NN (R135). -/
  | sneImm (x : RegSel) (nn : Byte)
  /-- 5XY0 SE VX, VY (R136). -/
  | seReg (x y : RegSel)
  /-- 6XNN LD VX, NN (R150). -/
  | ldImm (x : RegSel) (nn : Byte)
  /-- 7XNN ADD VX, NN (R151). -/
  | addImm (x : RegSel) (nn : Byte)
  /-- 8XY0 LD VX, VY (R152). -/
  | ldReg (x y : RegSel)
  /-- 8XY1 OR VX, VY (R153). -/
  | or (x y : RegSel)
  /-- 8XY2 AND VX, VY (R154). -/
  | and (x y : RegSel)
  /-- 8XY3 XOR VX, VY (R155). -/
  | xor (x y : RegSel)
  /-- 8XY4 ADD VX, VY (R156). -/
  | addReg (x y : RegSel)
  /-- 8XY5 SUB VX, VY (R157). -/
  | sub (x y : RegSel)
  /-- 8XY6 SHR VX; `y` is encoded but not read (R158). -/
  | shr (x y : RegSel)
  /-- 8XY7 SUBN VX, VY (R159). -/
  | subn (x y : RegSel)
  /-- 8XYE SHL VX; `y` is encoded but not read (R160). -/
  | shl (x y : RegSel)
  /-- 9XY0 SNE VX, VY (R137). -/
  | sneReg (x y : RegSel)
  /-- ANNN LD I, NNN (R180). -/
  | ldI (nnn : Addr12)
  /-- BNNN JP V0, NNN (R138). -/
  | jpV0 (nnn : Addr12)
  /-- CXNN RND VX, NN (R161). -/
  | rnd (x : RegSel) (nn : Byte)
  /-- DXYN DRW VX, VY, N (R201). -/
  | drw (x y : RegSel) (n : Nibble)
  /-- EX9E SKP VX (R223). -/
  | skp (x : RegSel)
  /-- EXA1 SKNP VX (R224). -/
  | sknp (x : RegSel)
  /-- FX07 LD VX, DT (R220). -/
  | ldVxDt (x : RegSel)
  /-- FX0A LD VX, K (R225, R226). -/
  | ldVxK (x : RegSel)
  /-- FX15 LD DT, VX (R221). -/
  | ldDtVx (x : RegSel)
  /-- FX18 LD ST, VX (R222). -/
  | ldStVx (x : RegSel)
  /-- FX1E ADD I, VX (R181). -/
  | addIVx (x : RegSel)
  /-- FX29 LD F, VX (R182). -/
  | ldFVx (x : RegSel)
  /-- FX33 LD B, VX (R183). -/
  | ldBVx (x : RegSel)
  /-- FX55 LD [I], VX (R184). -/
  | ldIVx (x : RegSel)
  /-- FX65 LD VX, [I] (R185). -/
  | ldVxI (x : RegSel)
  deriving DecidableEq, Repr

end Sys2Proof
end

