-- ==== Sys2Proof/WellFormed.lean ====
section
/-! DEFINITION. Which instructions have an encoding of their own (spec 30_encoding.md R96). The widths of the fields are in
their types, so the one check left is the priority of the exact words 0x00E0 and 0x00EE over 0NNN. -/

namespace Sys2Proof

/-- SYS with NNN = 0x0E0 or 0x0EE has no word: those words are CLS and RET (R96). Every other instruction is well formed. -/
def Instr.wellFormed : Instr → Bool
  | .cls => true
  | .ret => true
  | .sys nnn => nnn != 0x0E0 && nnn != 0x0EE
  | .jp _ => true
  | .call _ => true
  | .seImm _ _ => true
  | .sneImm _ _ => true
  | .seReg _ _ => true
  | .ldImm _ _ => true
  | .addImm _ _ => true
  | .ldReg _ _ => true
  | .or _ _ => true
  | .and _ _ => true
  | .xor _ _ => true
  | .addReg _ _ => true
  | .sub _ _ => true
  | .shr _ _ => true
  | .subn _ _ => true
  | .shl _ _ => true
  | .sneReg _ _ => true
  | .ldI _ => true
  | .jpV0 _ => true
  | .rnd _ _ => true
  | .drw _ _ _ => true
  | .skp _ => true
  | .sknp _ => true
  | .ldVxDt _ => true
  | .ldVxK _ => true
  | .ldDtVx _ => true
  | .ldStVx _ => true
  | .addIVx _ => true
  | .ldFVx _ => true
  | .ldBVx _ => true
  | .ldIVx _ => true
  | .ldVxI _ => true

end Sys2Proof
end

