-- ==== Sys2Proof/Decode.lean ====
section
/-! DEFINITION. The decoder and the encoder (spec 30_encoding.md). Decoding is total: a word that selects no operation is
rejected by name (`unknownOpcode`, R97). -/

namespace Sys2Proof

/-! ## Fields (R91), all taken from the full 16-bit word (R92) -/

/-- The family nibble, `op[15:12]`. -/
def fieldFamily (op : Word) : Nibble := op.extractLsb' 12 4

/-- X, `op[11:8]`. -/
def fieldX (op : Word) : RegSel := op.extractLsb' 8 4

/-- Y, `op[7:4]`. -/
def fieldY (op : Word) : RegSel := op.extractLsb' 4 4

/-- N, `op[3:0]`. -/
def fieldN (op : Word) : Nibble := op.extractLsb' 0 4

/-- NN, `op[7:0]`. -/
def fieldNN (op : Word) : Byte := op.extractLsb' 0 8

/-- NNN, `op[11:0]`. -/
def fieldNNN (op : Word) : Addr12 := op.extractLsb' 0 12

/-! ## Byte order (20_memory.md R75) -/

/-- The opcode of two consecutive bytes, big-endian: the byte at the lower address is bits 15 to 8. -/
def wordOfBytes (first second : Byte) : Word := first ++ second

/-- The byte of a word that stands at the lower address. -/
def firstByte (op : Word) : Byte := op.extractLsb' 8 8

/-- The byte of a word that stands at the higher address. -/
def secondByte (op : Word) : Byte := op.extractLsb' 0 8

/-! ## Decoding -/

/-- Why bytes do not decode. -/
inductive DecodeError where
  /-- The word selects none of the 35 operations (R97). -/
  | unknownOpcode (op : Word)
  /-- Fewer than the two bytes of an instruction are left (R90). -/
  | truncated (available : Nat)
  deriving DecidableEq, Repr

/-- Secondary dispatch of family 8 on N (R95). -/
def decodeFamily8 (op : Word) : Except DecodeError Instr :=
  match (fieldN op).toNat with
  | 0x0 => .ok (.ldReg (fieldX op) (fieldY op))
  | 0x1 => .ok (.or (fieldX op) (fieldY op))
  | 0x2 => .ok (.and (fieldX op) (fieldY op))
  | 0x3 => .ok (.xor (fieldX op) (fieldY op))
  | 0x4 => .ok (.addReg (fieldX op) (fieldY op))
  | 0x5 => .ok (.sub (fieldX op) (fieldY op))
  | 0x6 => .ok (.shr (fieldX op) (fieldY op))
  | 0x7 => .ok (.subn (fieldX op) (fieldY op))
  | 0xE => .ok (.shl (fieldX op) (fieldY op))
  | _ => .error (.unknownOpcode op)

/-- Secondary dispatch of family E on NN (R95). -/
def decodeFamilyE (op : Word) : Except DecodeError Instr :=
  match (fieldNN op).toNat with
  | 0x9E => .ok (.skp (fieldX op))
  | 0xA1 => .ok (.sknp (fieldX op))
  | _ => .error (.unknownOpcode op)

/-- Secondary dispatch of family F on NN (R95). -/
def decodeFamilyF (op : Word) : Except DecodeError Instr :=
  match (fieldNN op).toNat with
  | 0x07 => .ok (.ldVxDt (fieldX op))
  | 0x0A => .ok (.ldVxK (fieldX op))
  | 0x15 => .ok (.ldDtVx (fieldX op))
  | 0x18 => .ok (.ldStVx (fieldX op))
  | 0x1E => .ok (.addIVx (fieldX op))
  | 0x29 => .ok (.ldFVx (fieldX op))
  | 0x33 => .ok (.ldBVx (fieldX op))
  | 0x55 => .ok (.ldIVx (fieldX op))
  | 0x65 => .ok (.ldVxI (fieldX op))
  | _ => .error (.unknownOpcode op)

/-- Primary dispatch on the family nibble (R95); in family 0 the exact words are tested first (R96); families 5 and 9 need
N = 0 (R95). -/
def decodeWord (op : Word) : Except DecodeError Instr :=
  match (fieldFamily op).toNat with
  | 0x0 => if op = 0x00E0 then .ok .cls else if op = 0x00EE then .ok .ret else .ok (.sys (fieldNNN op))
  | 0x1 => .ok (.jp (fieldNNN op))
  | 0x2 => .ok (.call (fieldNNN op))
  | 0x3 => .ok (.seImm (fieldX op) (fieldNN op))
  | 0x4 => .ok (.sneImm (fieldX op) (fieldNN op))
  | 0x5 => if fieldN op = 0 then .ok (.seReg (fieldX op) (fieldY op)) else .error (.unknownOpcode op)
  | 0x6 => .ok (.ldImm (fieldX op) (fieldNN op))
  | 0x7 => .ok (.addImm (fieldX op) (fieldNN op))
  | 0x8 => decodeFamily8 op
  | 0x9 => if fieldN op = 0 then .ok (.sneReg (fieldX op) (fieldY op)) else .error (.unknownOpcode op)
  | 0xA => .ok (.ldI (fieldNNN op))
  | 0xB => .ok (.jpV0 (fieldNNN op))
  | 0xC => .ok (.rnd (fieldX op) (fieldNN op))
  | 0xD => .ok (.drw (fieldX op) (fieldY op) (fieldN op))
  | 0xE => decodeFamilyE op
  | _ => decodeFamilyF op

/-- The instruction at the head of a byte sequence, with the bytes after it (R75, R90). -/
def decode : List Byte → Except DecodeError (Instr × List Byte)
  | first :: second :: rest =>
    match decodeWord (wordOfBytes first second) with
    | .ok i => .ok (i, rest)
    | .error e => .error e
  | short => .error (.truncated short.length)

/-! ## Encoding, from the formats of R93 and the map of R95 -/

/-- Format FA: `oooo NNNN NNNN NNNN`. -/
def formatFA (family : Nibble) (nnn : Addr12) : Word := family ++ nnn

/-- Format FXNN: `oooo XXXX NNNN NNNN`; format FX is the same layout with NN fixed. -/
def formatFXNN (family : Nibble) (x : RegSel) (nn : Byte) : Word := family ++ x ++ nn

/-- Format FXYN: `oooo XXXX YYYY NNNN`; format FXY is the same layout with N fixed. -/
def formatFXYN (family : Nibble) (x y : RegSel) (n : Nibble) : Word := family ++ x ++ y ++ n

/-- The word of an instruction. -/
def encode : Instr → Word
  | .cls => 0x00E0
  | .ret => 0x00EE
  | .sys nnn => formatFA 0x0 nnn
  | .jp nnn => formatFA 0x1 nnn
  | .call nnn => formatFA 0x2 nnn
  | .seImm x nn => formatFXNN 0x3 x nn
  | .sneImm x nn => formatFXNN 0x4 x nn
  | .seReg x y => formatFXYN 0x5 x y 0x0
  | .ldImm x nn => formatFXNN 0x6 x nn
  | .addImm x nn => formatFXNN 0x7 x nn
  | .ldReg x y => formatFXYN 0x8 x y 0x0
  | .or x y => formatFXYN 0x8 x y 0x1
  | .and x y => formatFXYN 0x8 x y 0x2
  | .xor x y => formatFXYN 0x8 x y 0x3
  | .addReg x y => formatFXYN 0x8 x y 0x4
  | .sub x y => formatFXYN 0x8 x y 0x5
  | .shr x y => formatFXYN 0x8 x y 0x6
  | .subn x y => formatFXYN 0x8 x y 0x7
  | .shl x y => formatFXYN 0x8 x y 0xE
  | .sneReg x y => formatFXYN 0x9 x y 0x0
  | .ldI nnn => formatFA 0xA nnn
  | .jpV0 nnn => formatFA 0xB nnn
  | .rnd x nn => formatFXNN 0xC x nn
  | .drw x y n => formatFXYN 0xD x y n
  | .skp x => formatFXNN 0xE x 0x9E
  | .sknp x => formatFXNN 0xE x 0xA1
  | .ldVxDt x => formatFXNN 0xF x 0x07
  | .ldVxK x => formatFXNN 0xF x 0x0A
  | .ldDtVx x => formatFXNN 0xF x 0x15
  | .ldStVx x => formatFXNN 0xF x 0x18
  | .addIVx x => formatFXNN 0xF x 0x1E
  | .ldFVx x => formatFXNN 0xF x 0x29
  | .ldBVx x => formatFXNN 0xF x 0x33
  | .ldIVx x => formatFXNN 0xF x 0x55
  | .ldVxI x => formatFXNN 0xF x 0x65

/-- The bytes of an instruction as they stand in memory, the first at the lower address (R75). -/
def encodeBytes (i : Instr) : List Byte := [firstByte (encode i), secondByte (encode i)]

/-! ## The opcode table's numbering -/

/-- The 16-bit word of a table row: the bits above `nbits` are 0. -/
def tableWord (nbits w : Nat) : Word := BitVec.ofNat 16 (w % 2 ^ nbits)

/-- The instruction the decoder reads from the word `w` of a row of `nbits` bits, laid out in bytes as memory holds it. -/
def decodeTableWord (nbits w : Nat) : Option Instr :=
  match decode [firstByte (tableWord nbits w), secondByte (tableWord nbits w)] with
  | .ok (i, _) => some i
  | .error _ => none

end Sys2Proof
end

