-- ==== Sys2Proof/Config.lean ====
section
/-! DEFINITION. What an implementation fixes (spec 00_scope.md section 4) and the one free value of the spec (10_state.md R61). -/

namespace Sys2Proof

/-- `MEM_SIZE` (R9). -/
abbrev memSize : Nat := 4096

/-- `PROG_BASE` (R9): where programs are loaded and where execution starts. -/
abbrev progBase : Nat := 0x200

/-- `MAX_IMAGE = MEM_SIZE - PROG_BASE` (R9). -/
abbrev maxImage : Nat := memSize - progBase

/-- `FONT_SIZE` (R9): 16 glyphs of 5 bytes. -/
abbrev fontSize : Nat := 80

/-- `FONT_BASE` (R11). -/
abbrev fontBase : Nat := 0

/-- `SCREEN_W` (R9). -/
abbrev screenW : Nat := 64

/-- `SCREEN_H` (R9). -/
abbrev screenH : Nat := 32

/-- The two named parameters of the spec, `STACK_DEPTH` (R10) and `FONT` (R12).
`STACK_DEPTH` is held as its distance from 12, so that the bound 12 ≤ STACK_DEPTH ≤ 16 holds by construction.
Claims quantify over every `Config` (92_eei_decisions.md D1, D2). Log entry 1. -/
structure Config where
  /-- `STACK_DEPTH - 12`. -/
  stackExtra : Fin 5
  /-- `FONT`: glyph `d` stands at offsets `5*d` to `5*d + 4`. -/
  font : Vector Byte 80
  deriving DecidableEq, Repr

/-- `STACK_DEPTH` (R10). -/
def Config.stackDepth (c : Config) : Nat := 12 + c.stackExtra.val

/-- The reference font, glyphs 0 to 7 (70_reset_and_hazards.md R284, from general knowledge GK7). PRESUMED, log entry 1. -/
def referenceFontLow : List Byte :=
  [0xF0, 0x90, 0x90, 0x90, 0xF0] ++ [0x20, 0x60, 0x20, 0x20, 0x70] ++
  [0xF0, 0x10, 0xF0, 0x80, 0xF0] ++ [0xF0, 0x10, 0xF0, 0x10, 0xF0] ++
  [0x90, 0x90, 0xF0, 0x10, 0x10] ++ [0xF0, 0x80, 0xF0, 0x10, 0xF0] ++
  [0xF0, 0x80, 0xF0, 0x90, 0xF0] ++ [0xF0, 0x10, 0x20, 0x40, 0x40]

/-- The reference font, glyphs 8 to F (R284). PRESUMED, log entry 1. -/
def referenceFontHigh : List Byte :=
  [0xF0, 0x90, 0xF0, 0x90, 0xF0] ++ [0xF0, 0x90, 0xF0, 0x10, 0xF0] ++
  [0xF0, 0x90, 0xF0, 0x90, 0x90] ++ [0xE0, 0x90, 0xE0, 0x90, 0xE0] ++
  [0xF0, 0x80, 0x80, 0x80, 0xF0] ++ [0xE0, 0x90, 0x90, 0x90, 0xE0] ++
  [0xF0, 0x80, 0xF0, 0x80, 0xF0] ++ [0xF0, 0x80, 0xF0, 0x80, 0x80]

/-- The reference configuration of every test vector: `STACK_DEPTH = 16` (R10) and the reference font (R284). Log entry 1. -/
def Config.reference : Config :=
  { stackExtra := 4, font := ⟨(referenceFontLow ++ referenceFontHigh).toArray, rfl⟩ }

/-- The draw `rnd` of the environment (10_state.md R61, "a free draw with no law"): the `n`-th byte that CXNN consumes.
No body: nothing can be proved about its values, so a claim holds for every sequence of draws. Log entry 2. -/
opaque Config.randomDraw : Nat → Byte

end Sys2Proof
end

