-- ==== Sys2Proof/Machine/State.lean ====
section
/-! DEFINITION. The state of the block as plain data (spec 10_state.md R30), the reasons a transition can stop, and the state
at power-on (R50, 70_reset_and_hazards.md R280). -/

namespace Sys2Proof.Machine

/-- The memory array (R47): the bytes that differ from what they hold at power-on, as (address, byte) pairs with strictly
rising addresses. What an unlisted address reads as is `Memory.unlisted` (Machine/Ops.lean). Canonical form: `Memory.wf`. -/
abbrev Memory := List Host.Cell

/-- The display buffer (R40): 32 rows of 64 pixels; `true` is on (00_scope.md R19). -/
abbrev Display := Vector (Vector Bool 64) 32

/-- The run state (R45). -/
inductive RunState where
  /-- Executes instructions and advances timers. -/
  | running
  /-- Freezes both. -/
  | paused
  /-- Terminal: no command leaves it (60_exceptions.md R256). -/
  | halted
  deriving DecidableEq, Repr

/-- The diagnostic event of a step (60_exceptions.md R241). -/
inductive Diag where
  /-- Code 0: the step raised nothing. -/
  | none
  /-- Code 1, with the 16-bit opcode. -/
  | unknownOpcode (op : Word)
  /-- Code 2, with the address of the 2NNN. -/
  | stackOverflow (a : Word)
  /-- Code 3, with the address of the 00EE. -/
  | stackUnderflow (a : Word)
  /-- Code 4, with the lowest address at or above 0x1000 that the access would have touched. -/
  | addressError (addr : Nat)
  deriving DecidableEq, Repr

/-- The state of the block: the tuple of R30 under the spec's own names, then the model's own fields. -/
structure State where
  /-- `mem`, 4096 bytes (R47). -/
  mem : Memory
  /-- `V[0]` to `V[15]` (R31); `VF = V[15]` is also the flag (R32). -/
  V : Vector Byte 16
  /-- `I`, the address register (R34). -/
  I : Word
  /-- `PC` (R35). -/
  PC : Word
  /-- `stack` (R38). The block has the entries 0 to STACK_DEPTH - 1; the slots above are never read or written and hold 0
  (Safety.lean). Log entry 8. -/
  stack : Vector Word 16
  /-- `SP`, the call-stack depth, 0 to STACK_DEPTH (R38); the bound by STACK_DEPTH is an invariant (Safety.lean). -/
  SP : Fin 17
  /-- `disp` (R40). -/
  disp : Display
  /-- `DT`, the delay timer (R41). -/
  DT : Byte
  /-- `ST`, the sound timer (R42). -/
  ST : Byte
  /-- `key`, the input latch; `true` is pressed (R43). -/
  key : Vector Bool 16
  /-- `await`: `none`, or `some x` for `Waiting(x)` (R44). -/
  await : Option RegSel
  /-- `kedge`: press edges since the awaiting-key sub-state was entered (R44). -/
  kedge : Vector Bool 16
  /-- `run` (R45). -/
  run : RunState
  /-- MODEL'S OWN: the parameters STACK_DEPTH and FONT; nothing changes them. Log entry 1. -/
  cfg : Config
  /-- MODEL'S OWN: how many draws CXNN has consumed, so the index of the next one (R61). Log entry 2. -/
  draws : Nat
  /-- MODEL'S OWN: the diagnostic of a step on its way from the meaning that raises it to the host. It is no item of R30: every step
  overwrites it and none reads it, and `stepCommand` (Machine/Commands.lean) returns it beside a state that holds none
  (60_exceptions.md R241). Log entry 3. -/
  diag : Diag
  deriving DecidableEq, Repr

/-- Reasons the machine stops with a fault. THERE IS NONE: "Nothing in the core ever aborts the process" (60_exceptions.md R240);
every error of the spec is a no-op with a diagnostic, which is a next state. Nobody raises a fault (exact, so safe). Log entry 4. -/
inductive Fault where
  deriving DecidableEq, Repr

/-- Reasons a transition is given no meaning. -/
inductive Refusal where
  /-- Raised only by an arm of `exec` whose instruction has no meaning yet; no arm of this model raises it. Safe. -/
  | notModelled (mnemonic : String)
  /-- Raised by the host command `load` (Machine/Commands.lean), never by an instruction or a step: the load was issued in
  Halted and would otherwise have succeeded (70_reset_and_hazards.md R286, "a model gives such a load no meaning"). Safe. Log entry 5. -/
  | loadInHalted
  deriving DecidableEq, Repr

/-- The block at power-on under the parameters `c` (R50, power-on column; 70_reset_and_hazards.md R280): memory lists nothing, so
it reads as FONT and zeros. -/
def State.powerOn (c : Config) : State :=
  { mem := []
    V := .replicate 16 0
    I := 0
    PC := 0x200
    stack := .replicate 16 0
    SP := 0
    disp := .replicate 32 (.replicate 64 false)
    DT := 0
    ST := 0
    key := .replicate 16 false
    await := none
    kedge := .replicate 16 false
    run := .paused
    cfg := c
    draws := 0
    diag := .none }

/-- The machine right after reset: power-on at the reference configuration (00_scope.md R10, 70_reset_and_hazards.md R284). Log entry 1. -/
def State.reset : State := State.powerOn Config.reference

end Sys2Proof.Machine
end

