-- ==== Sys2Proof/Machine/Ops.lean ====
section
/-! DEFINITION. The shared operations over memory, registers, PC, the call stack and the diagnostic output. -/

namespace Sys2Proof.Machine

/-! ## Memory (20_memory.md) -/

/-- What an address that memory does not list reads as: its power-on content, FONT at 0x000-0x04F and 0x00 elsewhere
(10_state.md R50, 00_scope.md R11). -/
def Memory.unlisted (c : Config) (a : Nat) : Byte :=
  if h : a - fontBase < 80 then c.font[a - fontBase] else 0

/-- `MemRead(a, 1)` (00_scope.md R17). Every caller checks `a < MEM_SIZE` first. -/
def Memory.read (c : Config) : Memory → Nat → Byte
  | [], a => Memory.unlisted c a
  | (b, v) :: rest, a => if a = b then v else Memory.read c rest a

/-- `MemWrite(a, 1, v)` (R17), keeping the canonical form: a byte written with its power-on content is not listed. -/
def Memory.write (c : Config) : Memory → Nat → Byte → Memory
  | [], a, v => if v = Memory.unlisted c a then [] else [(a, v)]
  | (b, w) :: rest, a, v =>
    if a < b then
      if v = Memory.unlisted c a then (b, w) :: rest else (a, v) :: (b, w) :: rest
    else if a = b then
      if v = Memory.unlisted c a then rest else (a, v) :: rest
    else (b, w) :: Memory.write c rest a v

/-- Single-byte writes at consecutive increasing addresses (20_memory.md R76). -/
def Memory.writeBytes (c : Config) : Memory → Nat → List Byte → Memory
  | m, _, [] => m
  | m, a, v :: vs => Memory.writeBytes c (Memory.write c m a v) (a + 1) vs

/-- The canonical form from address `lo` on. -/
def Memory.wfFrom (c : Config) (lo : Nat) : Memory → Bool
  | [] => true
  | (a, v) :: rest => decide (lo ≤ a) && decide (a < memSize) && v != Memory.unlisted c a && Memory.wfFrom c (a + 1) rest

/-- The canonical form of memory: addresses strictly rising and below `MEM_SIZE`, no entry equal to what an unlisted address
reads as. -/
def Memory.wf (c : Config) (m : Memory) : Bool := Memory.wfFrom c 0 m

/-- The byte at an address. -/
def State.readByte (s : State) (a : Nat) : Byte := Memory.read s.cfg s.mem a

/-- Stores bytes at consecutive addresses from `a` on. -/
def State.storeBytes (s : State) (a : Nat) (vs : List Byte) : State :=
  { s with mem := Memory.writeBytes s.cfg s.mem a vs }

/-- The check of 20_memory.md R74 on `count` consecutive byte accesses from `start` on: `none` when every one lies in memory,
else the lowest address at or above `MEM_SIZE` that would be touched. Addresses are unbounded integers, never wrapped. -/
def rangeError (start count : Nat) : Option Nat :=
  if 0 < count ∧ memSize ≤ start + count - 1 then some (max start memSize) else none

/-! ## Registers (10_state.md R31 to R34) -/

/-- `V[x]`. -/
def State.reg (s : State) (x : RegSel) : Byte := s.V[x.toNat]'x.isLt

/-- `V[x] <- v`. -/
def State.setReg (s : State) (x : RegSel) (v : Byte) : State := { s with V := s.V.set x.toNat v x.isLt }

/-- The selector of `VF`, the flag register (R32). -/
abbrev vf : RegSel := 0xF

/-- `I <- v`. -/
def State.setI (s : State) (v : Word) : State := { s with I := v }

/-- `DT <- v`. -/
def State.setDT (s : State) (v : Byte) : State := { s with DT := v }

/-- `ST <- v`. -/
def State.setST (s : State) (v : Byte) : State := { s with ST := v }

/-- `disp <- d`. -/
def State.setDisp (s : State) (d : Display) : State := { s with disp := d }

/-- The V registers after `V[k] <- f k` for k = 0 to n - 1, in that order (43_index_memory.md R185). -/
def loadRegs (f : Nat → Byte) : Nat → Vector Byte 16 → Vector Byte 16
  | 0, V => V
  | n + 1, V => (loadRegs f n V).setIfInBounds n (f n)

/-! ## Program counter (10_state.md R36; modulo 2^16) -/

/-- `PC <- v`. -/
def State.setPC (s : State) (v : Word) : State := { s with PC := v }

/-- The address of the executing instruction, from the post-fetch PC (40_step_cycle.md R112). -/
def State.instrAddr (s : State) : Word := s.PC - 2

/-- A skip, `PC <- (PC + 2) mod 2^16`, taken when `c` holds (41_control_flow.md, template). -/
def State.skipIf (s : State) (c : Bool) : State := s.setPC (if c then s.PC + 2 else s.PC)

/-! ## Call stack (10_state.md R38) -/

/-- A push is allowed only below the capacity (R38). -/
def State.stackFull (s : State) : Bool := decide (s.cfg.stackDepth ≤ s.SP.val)

/-- A pop is allowed only when an entry is live (R38). -/
def State.stackEmpty (s : State) : Bool := decide (s.SP.val = 0)

/-- `stack[SP] <- v; SP <- SP + 1`; called only when the stack is not full, so `SP < STACK_DEPTH <= 16`. -/
def State.push (s : State) (v : Word) : State :=
  { s with stack := s.stack.setIfInBounds s.SP.val v, SP := s.SP + 1 }

/-- `SP <- SP - 1`; the entry stays (R38). Called only when the stack is not empty. -/
def State.pop (s : State) : State := { s with SP := s.SP - 1 }

/-- `stack[SP - 1]`, the top, for `SP > 0`. -/
def State.top (s : State) : Word := s.stack.getD (s.SP.val - 1) 0

/-! ## Raising a diagnostic (00_scope.md R18, 60_exceptions.md R241, R246)

This is the machine's whole error handling: no state is saved, no mode changes and control goes nowhere. There is no return from
it (R247). -/

/-- `raise E(info)`: the step's diagnostic output is `d` and nothing else changes. -/
def State.raise (s : State) (d : Diag) : State := { s with diag := d }

/-- The state as it stands between commands: the diagnostic is not part of it (60_exceptions.md R241). -/
def State.withoutDiag (s : State) : State := { s with diag := .none }

/-- The numeric code of a diagnostic (60_exceptions.md R241). -/
def Diag.code : Diag → Nat
  | .none => 0
  | .unknownOpcode _ => 1
  | .stackOverflow _ => 2
  | .stackUnderflow _ => 3
  | .addressError _ => 4

/-! ## Fetch (40_step_cycle.md R111, R112, R117) -/

/-- The fetch check: two bytes at PC and PC + 1, not wrapped. -/
def State.fetchError (s : State) : Option Nat := rangeError s.PC.toNat 2

/-- The opcode at PC, big-endian (R111). -/
def State.fetchWord (s : State) : Word := wordOfBytes (s.readByte s.PC.toNat) (s.readByte (s.PC.toNat + 1))

/-- After a successful fetch: no diagnostic yet and `PC <- (a + 2) mod 2^16` (R110, R112). -/
def State.fetched (s : State) : State := { s with PC := s.PC + 2, diag := .none }

/-! ## Awaiting a key (45_timers_keys.md R225, R226) -/

/-- Entry to the awaiting-key sub-state: `await <- Waiting(x)`, no edges seen (R225). -/
def State.enterAwait (s : State) (x : RegSel) : State :=
  { s with await := some x, kedge := .replicate 16 false }

/-- The least key with a recorded press edge (R226). -/
def leastEdge (kedge : Vector Bool 16) : Option Nibble :=
  (kedge.toList.findIdx? (fun b => b)).map (BitVec.ofNat 4)

/-- Leaving the sub-state: `await <- None`, edges cleared (R226). -/
def State.leaveAwait (s : State) : State := { s with await := none, kedge := .replicate 16 false }

/-- `AwaitStep` for `await = Waiting(x)` (R226). -/
def State.awaitStep (s : State) (x : RegSel) : State :=
  match leastEdge s.kedge with
  | none => s
  | some k => ((s.setReg x (k.setWidth 8)).leaveAwait).setPC (s.PC + 2)

end Sys2Proof.Machine
end

