-- ==== Sys2Proof/Machine/Operands.lean ====
section
/-! DEFINITION. The operand forms (spec 30_encoding.md R94, 43_index_memory.md R186). Registers X and Y are read with
`State.reg` (Machine/Ops.lean); NN is used as it is. -/

namespace Sys2Proof.Machine

/-- `zext_16(NNN)` (R94). -/
def addrOperand (nnn : Addr12) : Word := nnn.setWidth 16

/-- `zext_16(v)` of a register value (41_control_flow.md R138, 43_index_memory.md R181). -/
def indexOperand (v : Byte) : Word := v.setWidth 16

/-- `v AND 0x0F` as a key number (45_timers_keys.md R223, decision D15). -/
def keyOperand (v : Byte) : Nibble := v.setWidth 4

/-- `FONT_BASE + 5 * (v AND 0x0F)` (43_index_memory.md R182, decision D15). -/
def glyphOperand (v : Byte) : Word := BitVec.ofNat 16 (fontBase + 5 * (v.toNat % 16))

/-- The latch level of a key (00_scope.md R20). -/
def State.keyDown (s : State) (k : Nibble) : Bool := s.key[k.toNat]'k.isLt

/-- The digits of `v`, hundreds, tens, units (43_index_memory.md R183). -/
def bcdDigits (v : Byte) : List Byte :=
  [BitVec.ofNat 8 (v.toNat / 100), BitVec.ofNat 8 (v.toNat / 10 % 10), BitVec.ofNat 8 (v.toNat % 10)]

/-- How many registers FX55 and FX65 move: V0 to VX (43_index_memory.md R184, R185). -/
def blockCount (x : RegSel) : Nat := x.toNat + 1

/-- The values of V0 to VX, in that order (R184). -/
def State.blockRegs (s : State) (x : RegSel) : List Byte := s.V.toList.take (blockCount x)

end Sys2Proof.Machine
end

