-- ==== Sys2Proof/Machine/ControlFlow.lean ====
section
/-! DEFINITION. Control flow instructions (spec 41_control_flow.md). On entry PC is the post-fetch value `a + 2`. -/

namespace Sys2Proof.Machine

/-- 0NNN SYS (R130): no-op, no diagnostic (decision D7). -/
def execSys (_nnn : Addr12) (s : State) : Host.Outcome State Fault Refusal := .next s

/-- 00EE RET (R131): pops the return address, or raises StackUnderflow and changes nothing. -/
def execRet (s : State) : Host.Outcome State Fault Refusal :=
  if s.stackEmpty then .next (s.raise (.stackUnderflow s.instrAddr)) else .next (s.pop.setPC s.top)

/-- 1NNN JP (R132). -/
def execJp (nnn : Addr12) (s : State) : Host.Outcome State Fault Refusal := .next (s.setPC (addrOperand nnn))

/-- 2NNN CALL (R133): pushes the post-fetch PC, or raises StackOverflow and changes nothing. -/
def execCall (nnn : Addr12) (s : State) : Host.Outcome State Fault Refusal :=
  if s.stackFull then .next (s.raise (.stackOverflow s.instrAddr))
  else .next ((s.push s.PC).setPC (addrOperand nnn))

/-- 3XNN SE VX, NN (R134). -/
def execSeImm (x : RegSel) (nn : Byte) (s : State) : Host.Outcome State Fault Refusal :=
  .next (s.skipIf (s.reg x == nn))

/-- 4XNN SNE VX, NN (R135). -/
def execSneImm (x : RegSel) (nn : Byte) (s : State) : Host.Outcome State Fault Refusal :=
  .next (s.skipIf (s.reg x != nn))

/-- 5XY0 SE VX, VY (R136). -/
def execSeReg (x y : RegSel) (s : State) : Host.Outcome State Fault Refusal :=
  .next (s.skipIf (s.reg x == s.reg y))

/-- 9XY0 SNE VX, VY (R137). -/
def execSneReg (x y : RegSel) (s : State) : Host.Outcome State Fault Refusal :=
  .next (s.skipIf (s.reg x != s.reg y))

/-- BNNN JP V0, NNN (R138): the 16-bit sum, not masked (decision D13). -/
def execJpV0 (nnn : Addr12) (s : State) : Host.Outcome State Fault Refusal :=
  .next (s.setPC (addrOperand nnn + indexOperand (s.reg 0)))

end Sys2Proof.Machine
end

