-- ==== Sys2Proof/Machine/Flags.lean ====
section
/-! DEFINITION. The flag computations (spec 10_state.md R48) and the order of the result and the flag (decision D10). Operands
are read as integers, the exact result is computed and then narrowed (42_register_alu.md R162). -/

namespace Sys2Proof.Machine

/-- A flag as a register value: 1 or 0. -/
def flagByte (b : Bool) : Byte := if b then 1 else 0

/-- Carry out of bit 7 (42_register_alu.md R156): the integer sum is 256 or more. -/
def carryFlag (vx vy : Byte) : Bool := decide (256 ≤ vx.toNat + vy.toNat)

/-- No borrow (R157, R159, decision D11): minuend at least subtrahend. -/
def noBorrowFlag (minuend subtrahend : Byte) : Bool := decide (subtrahend.toNat ≤ minuend.toNat)

/-- The bit a right shift by one moves out: old bit 0 (R158). -/
def shiftedOutRight (v : Byte) : Bool := decide (v.toNat % 2 = 1)

/-- The bit a left shift by one moves out: old bit 7 (R160). -/
def shiftedOutLeft (v : Byte) : Bool := decide (128 ≤ v.toNat)

/-- `s mod 256` of the integer sum (R151, R156). -/
def sumByte (a b : Byte) : Byte := BitVec.ofNat 8 (a.toNat + b.toNat)

/-- `(a - b) mod 256` (R157, R159). -/
def differenceByte (a b : Byte) : Byte := BitVec.ofInt 8 ((a.toNat : Int) - (b.toNat : Int))

/-- `v div 2` (R158). -/
def halfByte (v : Byte) : Byte := BitVec.ofNat 8 (v.toNat / 2)

/-- `(v * 2) mod 256` (R160). -/
def doubleByte (v : Byte) : Byte := BitVec.ofNat 8 (v.toNat * 2)

/-- Writes the result to VX first and the flag to VF second, so that VF holds the flag when X = F (decision D10). -/
def State.setRegFlag (s : State) (x : RegSel) (result : Byte) (flag : Bool) : State :=
  (s.setReg x result).setReg vf (flagByte flag)

end Sys2Proof.Machine
end

