-- ==== Sys2Proof/Machine/Display.lean ====
section
/-! DEFINITION. Display instructions and the sprite blitter (spec 44_display.md). Neither writes PC. -/

namespace Sys2Proof.Machine

/-- `disp[y][x]` (00_scope.md R19); the blitter asks only for y < 32 and x < 64. -/
def Display.pixel (d : Display) (y x : Nat) : Bool :=
  if h : y < 32 ∧ x < 64 then (d[y]'h.1)[x]'h.2 else false

/-- `disp[y][x] <- not disp[y][x]`. -/
def Display.toggle (d : Display) (y x : Nat) : Display :=
  if h : y < 32 ∧ x < 64 then d.set y ((d[y]'h.1).set x (!(d[y]'h.1)[x]'h.2) h.2) h.1 else d

/-- Every pixel off (R200). -/
def Display.clear : Display := .replicate 32 (.replicate 64 false)

/-- 00E0 CLS (R200). -/
def execCls (s : State) : Host.Outcome State Fault Refusal := .next (s.setDisp Display.clear)

/-- One sprite bit of R201: `b` counts from the most significant bit of `byte`; a column at or past 64 is clipped; the
collision flag is sticky. `acc` is the display and the collision so far. -/
def drawBit (x0 y : Nat) (byte : Byte) (acc : Display × Bool) (b : Nat) : Display × Bool :=
  if screenW ≤ x0 + b then acc
  else if byte.getLsbD (7 - b) then (acc.1.toggle y (x0 + b), acc.2 || acc.1.pixel y (x0 + b))
  else acc

/-- One sprite row of R201: bits 0 to 7 in order. -/
def drawRow (x0 y : Nat) (byte : Byte) (acc : Display × Bool) : Display × Bool :=
  (List.range 8).foldl (drawBit x0 y byte) acc

/-- The row loop of R201: rows 0 to `rows - 1` in order; `byteAt r` is the sprite byte of row r. -/
def drawRows (byteAt : Nat → Byte) (x0 y0 rows : Nat) (d : Display) : Display × Bool :=
  (List.range rows).foldl (fun acc r => drawRow x0 (y0 + r) (byteAt r) acc) (d, false)

/-- The starting column of a draw, `V[X] mod 64` (R201 step 1). -/
def State.drawX (s : State) (x : RegSel) : Nat := (s.reg x).toNat % screenW

/-- The starting row of a draw, `V[Y] mod 32` (R201 step 1). -/
def State.drawY (s : State) (y : RegSel) : Nat := (s.reg y).toNat % screenH

/-- The rows a draw reads and draws, `min(N, 32 - y0)` (R201 step 4, decision D18). -/
def State.drawCount (s : State) (y : RegSel) (n : Nibble) : Nat := min n.toNat (screenH - s.drawY y)

/-- DXYN DRW VX, VY, N (R201): the coordinates are read before VF is written; a row outside memory raises AddressError and
nothing changes. -/
def execDrw (x y : RegSel) (n : Nibble) (s : State) : Host.Outcome State Fault Refusal :=
  match rangeError s.I.toNat (s.drawCount y n) with
  | some a => .next (s.raise (.addressError a))
  | none =>
    let drawn := drawRows (fun r => s.readByte (s.I.toNat + r)) (s.drawX x) (s.drawY y) (s.drawCount y n) s.disp
    .next ((s.setDisp drawn.1).setReg vf (flagByte drawn.2))

end Sys2Proof.Machine
end

