-- ==== Sys2Proof/Machine/IndexMemory.lean ====
section
/-! DEFINITION. Index register and memory instructions (spec 43_index_memory.md). None writes PC or, but for ANNN, FX1E and FX29,
`I`. The range check precedes every write (20_memory.md R74). -/

namespace Sys2Proof.Machine

/-- ANNN LD I, NNN (R180). -/
def execLdI (nnn : Addr12) (s : State) : Host.Outcome State Fault Refusal := .next (s.setI (addrOperand nnn))

/-- FX1E ADD I, VX (R181): modulo 2^16, no flag (decision D6). -/
def execAddIVx (x : RegSel) (s : State) : Host.Outcome State Fault Refusal :=
  .next (s.setI (s.I + indexOperand (s.reg x)))

/-- FX29 LD F, VX (R182): the low nibble of VX selects the glyph (decision D15). -/
def execLdFVx (x : RegSel) (s : State) : Host.Outcome State Fault Refusal := .next (s.setI (glyphOperand (s.reg x)))

/-- FX33 LD B, VX (R183). -/
def execLdBVx (x : RegSel) (s : State) : Host.Outcome State Fault Refusal :=
  match rangeError s.I.toNat 3 with
  | some a => .next (s.raise (.addressError a))
  | none => .next (s.storeBytes s.I.toNat (bcdDigits (s.reg x)))

/-- FX55 LD [I], VX (R184): V0 to VX; I is not changed (decision D17). -/
def execLdIVx (x : RegSel) (s : State) : Host.Outcome State Fault Refusal :=
  match rangeError s.I.toNat (blockCount x) with
  | some a => .next (s.raise (.addressError a))
  | none => .next (s.storeBytes s.I.toNat (s.blockRegs x))

/-- FX65 LD VX, [I] (R185): V0 to VX; I is not changed (decision D17). -/
def execLdVxI (x : RegSel) (s : State) : Host.Outcome State Fault Refusal :=
  match rangeError s.I.toNat (blockCount x) with
  | some a => .next (s.raise (.addressError a))
  | none => .next { s with V := loadRegs (fun k => s.readByte (s.I.toNat + k)) (blockCount x) s.V }

end Sys2Proof.Machine
end

