-- ==== Sys2Proof/Machine/RegisterAlu.lean ====
section
/-! DEFINITION. Register and ALU instructions (spec 42_register_alu.md). None writes PC; none raises a diagnostic. -/

namespace Sys2Proof.Machine

/-- 6XNN LD VX, NN (R150). -/
def execLdImm (x : RegSel) (nn : Byte) (s : State) : Host.Outcome State Fault Refusal := .next (s.setReg x nn)

/-- 7XNN ADD VX, NN (R151): wraps, no flag. -/
def execAddImm (x : RegSel) (nn : Byte) (s : State) : Host.Outcome State Fault Refusal :=
  .next (s.setReg x (sumByte (s.reg x) nn))

/-- 8XY0 LD VX, VY (R152). -/
def execLdReg (x y : RegSel) (s : State) : Host.Outcome State Fault Refusal := .next (s.setReg x (s.reg y))

/-- 8XY1 OR VX, VY (R153): VF is not reset (decision D9). -/
def execOr (x y : RegSel) (s : State) : Host.Outcome State Fault Refusal := .next (s.setReg x (s.reg x ||| s.reg y))

/-- 8XY2 AND VX, VY (R154): VF is not reset (decision D9). -/
def execAnd (x y : RegSel) (s : State) : Host.Outcome State Fault Refusal := .next (s.setReg x (s.reg x &&& s.reg y))

/-- 8XY3 XOR VX, VY (R155): VF is not reset (decision D9). -/
def execXor (x y : RegSel) (s : State) : Host.Outcome State Fault Refusal := .next (s.setReg x (s.reg x ^^^ s.reg y))

/-- 8XY4 ADD VX, VY (R156): VF is the carry. -/
def execAddReg (x y : RegSel) (s : State) : Host.Outcome State Fault Refusal :=
  .next (s.setRegFlag x (sumByte (s.reg x) (s.reg y)) (carryFlag (s.reg x) (s.reg y)))

/-- 8XY5 SUB VX, VY (R157): VF is 1 when no borrow occurs. -/
def execSub (x y : RegSel) (s : State) : Host.Outcome State Fault Refusal :=
  .next (s.setRegFlag x (differenceByte (s.reg x) (s.reg y)) (noBorrowFlag (s.reg x) (s.reg y)))

/-- 8XY6 SHR VX (R158): VX in place, Y is not read (decision D12); VF is the old bit 0. -/
def execShr (x _y : RegSel) (s : State) : Host.Outcome State Fault Refusal :=
  .next (s.setRegFlag x (halfByte (s.reg x)) (shiftedOutRight (s.reg x)))

/-- 8XY7 SUBN VX, VY (R159): VF is 1 when no borrow occurs. -/
def execSubn (x y : RegSel) (s : State) : Host.Outcome State Fault Refusal :=
  .next (s.setRegFlag x (differenceByte (s.reg y) (s.reg x)) (noBorrowFlag (s.reg y) (s.reg x)))

/-- 8XYE SHL VX (R160): VX in place, Y is not read (decision D12); VF is the old bit 7. -/
def execShl (x _y : RegSel) (s : State) : Host.Outcome State Fault Refusal :=
  .next (s.setRegFlag x (doubleByte (s.reg x)) (shiftedOutLeft (s.reg x)))

/-- The draw this step's CXNN consumes (10_state.md R61): a free value. Log entry 2. -/
def State.drawn (s : State) : Byte := Config.randomDraw s.draws

/-- Marks the draw as consumed. Log entry 2. -/
def State.consumeDraw (s : State) : State := { s with draws := s.draws + 1 }

/-- CXNN RND VX, NN (R161): `V[X] <- rnd AND NN`. -/
def execRnd (x : RegSel) (nn : Byte) (s : State) : Host.Outcome State Fault Refusal :=
  .next ((s.setReg x (s.drawn &&& nn)).consumeDraw)

end Sys2Proof.Machine
end

