-- ==== Sys2Proof/Machine/TimersKeys.lean ====
section
/-! DEFINITION. Timer and key instructions (spec 45_timers_keys.md). -/

namespace Sys2Proof.Machine

/-- FX07 LD VX, DT (R220). -/
def execLdVxDt (x : RegSel) (s : State) : Host.Outcome State Fault Refusal := .next (s.setReg x s.DT)

/-- FX15 LD DT, VX (R221). -/
def execLdDtVx (x : RegSel) (s : State) : Host.Outcome State Fault Refusal := .next (s.setDT (s.reg x))

/-- FX18 LD ST, VX (R222). -/
def execLdStVx (x : RegSel) (s : State) : Host.Outcome State Fault Refusal := .next (s.setST (s.reg x))

/-- EX9E SKP VX (R223): tests the latch level. -/
def execSkp (x : RegSel) (s : State) : Host.Outcome State Fault Refusal :=
  .next (s.skipIf (s.keyDown (keyOperand (s.reg x))))

/-- EXA1 SKNP VX (R224). -/
def execSknp (x : RegSel) (s : State) : Host.Outcome State Fault Refusal :=
  .next (s.skipIf (!s.keyDown (keyOperand (s.reg x))))

/-- FX0A LD VX, K, entry (R225): PC goes back to this instruction; later steps complete it (`State.awaitStep`, R226). -/
def execLdVxK (x : RegSel) (s : State) : Host.Outcome State Fault Refusal :=
  .next ((s.enterAwait x).setPC (s.PC - 2))

end Sys2Proof.Machine
end

