-- ==== Sys2Proof/Machine/Cycle.lean ====
section
/-! DEFINITION. The fetch-decode-execute cycle (spec 40_step_cycle.md R110), and placing a word where it fetches. -/

namespace Sys2Proof.Machine

/-- Decode and execute after a successful fetch of `op` (R113, R114); `s` has the post-fetch PC. A word that selects no
operation raises UnknownOpcode and is a no-op (R115). -/
def execWord (op : Word) (s : State) : Host.Outcome State Fault Refusal :=
  match decodeWord op with
  | .ok i => exec i s
  | .error _ => .next (s.raise (.unknownOpcode op))

/-- One step while Running and not awaiting a key (R110): a fetch out of range raises AddressError and changes nothing, PC
included (R117). -/
def fetchAndExec (s : State) : Host.Outcome State Fault Refusal :=
  match s.fetchError with
  | some a => .next (s.raise (.addressError a))
  | none => execWord s.fetchWord s.fetched

/-- `step(rnd)` (R110): in Paused and Halted nothing changes (60_exceptions.md R257); while awaiting a key only the completion
test is made (R116). Every step sets the diagnostic output (R118). -/
def stepCycle (s : State) : Host.Outcome State Fault Refusal :=
  match s.run with
  | .paused => .next (s.raise .none)
  | .halted => .next (s.raise .none)
  | .running =>
    match s.await with
    | some x => .next ((s.raise .none).awaitStep x)
    | none => fetchAndExec s

/-- Where the next fetch takes place: PC when a fetch there is in range, else `PROG_BASE`. -/
def State.fetchAddr (s : State) : Word := if s.fetchError = none then s.PC else BitVec.ofNat 16 progBase

/-- `s` made to fetch and run the word `w` next: the word stored big-endian at the fetch address, Running and not awaiting a
key. Log entry 6. -/
def State.placeWord (s : State) (w : Word) : State :=
  { (s.storeBytes s.fetchAddr.toNat [firstByte w, secondByte w]).leaveAwait with PC := s.fetchAddr, run := .running }

end Sys2Proof.Machine
end

