-- ==== Sys2Proof/Machine/Step.lean ====
section
/-! DEFINITION. One step of the block (spec 40_step_cycle.md R110), and the host's way to place an instruction. -/

namespace Sys2Proof.Machine

/-- The host command `step()`. Timers, keys, load and run-state requests are commands of their own (Machine/Commands.lean, log entry 7). -/
def step (s : State) : Host.Outcome State Fault Refusal := stepCycle s

/-- `s` with the instruction of a table row stored where `step` fetches next, and Running, so that the very next step runs it.
It stands for the host's `load` (70_reset_and_hazards.md R285). Log entry 6. -/
def State.withFetchWord (s : State) (nbits w : Nat) : State := s.placeWord (tableWord nbits w)

end Sys2Proof.Machine
end

