-- ==== Sys2Proof/Machine/Commands.lean ====
section
/-! DEFINITION. The host command interface other than `step()` (spec 10_state.md R60 to R63): each command is one atomic
transition, and the host may issue them in any order (70_reset_and_hazards.md R301). -/

namespace Sys2Proof.Machine

/-! ## Run state (60_exceptions.md R252 to R256) -/

/-- `request_pause()` (R253). -/
def requestPause (s : State) : State :=
  match s.run with
  | .running => { s with run := .paused }
  | .paused => s
  | .halted => s

/-- `request_resume()` (R254). -/
def requestResume (s : State) : State :=
  match s.run with
  | .running => s
  | .paused => { s with run := .running }
  | .halted => s

/-- `request_quit()` (R255). -/
def requestQuit (s : State) : State :=
  match s.run with
  | .running => { s with run := .halted }
  | .paused => { s with run := .halted }
  | .halted => s

/-! ## Timers (60_exceptions.md R260, R261) -/

/-- A timer's decrement, saturating at 0 (R260). -/
def countDown (t : Byte) : Byte := if t = 0 then 0 else t - 1

/-- `tick_timers()` (R260): acts only in Running, awaiting a key included. -/
def tickTimers (s : State) : State :=
  match s.run with
  | .running => { s with DT := countDown s.DT, ST := countDown s.ST }
  | .paused => s
  | .halted => s

/-! ## Input latch (60_exceptions.md R265, R266) -/

/-- Whether `set_key(k, p)` records a press edge (R266). -/
def State.recordsEdge (s : State) (k : Nibble) (p : Bool) : Bool :=
  s.await.isSome && p && !(s.key[k.toNat]'k.isLt)

/-- `set_key(k, p)`: records the edge, then writes the latch, in every run state (R265, R266). -/
def setKey (k : Nibble) (p : Bool) (s : State) : State :=
  { s with
    kedge := if s.recordsEdge k p then s.kedge.set k.toNat true k.isLt else s.kedge
    key := s.key.set k.toNat p k.isLt }

/-! ## Load (70_reset_and_hazards.md R282 to R286) -/

/-- The two load errors (R282, R283; 90_conflicts.md C4). -/
inductive LoadError where
  /-- The image is longer than `MAX_IMAGE`. -/
  | imageTooLarge
  /-- The byte source could not be read. -/
  | ioFailure
  deriving DecidableEq, Repr

/-- The result `load` returns to the host. -/
inductive LoadResult where
  | ok
  | error (e : LoadError)
  deriving DecidableEq, Repr

/-- What the host hands to `load`: the bytes of the image, or `none` where its source cannot be read (R283). -/
abbrev ByteSource := Option (List Byte)

/-- The bytes of FONT in order (R285). -/
def fontBytes (c : Config) : List Byte := c.font.toList

/-- The transition of a successful load (R285). It leaves the display, the latch and the rest of memory as they are. -/
def State.loadImage (s : State) (bytes : List Byte) : State :=
  { (s.storeBytes fontBase (fontBytes s.cfg)).storeBytes progBase bytes with
    V := .replicate 16 0
    I := 0
    PC := BitVec.ofNat 16 progBase
    SP := 0
    stack := .replicate 16 0
    DT := 0
    ST := 0
    await := none
    kedge := .replicate 16 false
    run := .running }

/-- `load(bytes)`: an unreadable source or an image that is too large is an error that changes no state (R282, R283); in Halted
a load that would succeed is refused (R286, log entry 5). -/
def load (src : ByteSource) (s : State) : Host.Outcome (State × LoadResult) Fault Refusal :=
  match src with
  | none => .next (s, .error .ioFailure)
  | some bytes =>
    if maxImage < bytes.length then .next (s, .error .imageTooLarge)
    else
      match s.run with
      | .halted => .refused .loadInHalted
      | .running => .next (s.loadImage bytes, .ok)
      | .paused => .next (s.loadImage bytes, .ok)

/-! ## Outputs (10_state.md R62) -/

/-- `display()` (R62). -/
def State.display (s : State) : Display := s.disp

/-- `sound_active()` (60_exceptions.md R261): in every run state. -/
def State.soundActive (s : State) : Bool := decide (0 < s.ST.toNat)

/-- `run_state()` (R62). -/
def State.runState (s : State) : RunState := s.run

/-! ## Commands as the host sees them (10_state.md R60, R63; 60_exceptions.md R241)

Between commands the state is the tuple of R30 alone, so a command hands back a state with nothing on the model's field `diag`, and
what it returns stands beside that state: the diagnostic of a `step()`, the `Result` of a `load`. Log entry 3. -/

/-- `o`, and then `f` of its next state. -/
def thenNext {α β : Type} (o : Host.Outcome α Fault Refusal) (f : α → Host.Outcome β Fault Refusal) :
    Host.Outcome β Fault Refusal :=
  match o with
  | .next a => f a
  | .fault r => .fault r
  | .refused r => .refused r

/-- `step() -> diag` (R62, R241): the state after the step and, beside it, the diagnostic of that step. -/
def stepCommand (s : State) : Host.Outcome (State × Diag) Fault Refusal :=
  thenNext (step s) fun t => .next (t.withoutDiag, t.diag)

/-- The host commands (R60). -/
inductive Command where
  | load (src : ByteSource)
  | setKey (k : Nibble) (pressed : Bool)
  | step
  | tickTimers
  | requestPause
  | requestResume
  | requestQuit
  deriving DecidableEq, Repr

/-- What a command returns to the host (R60, R62). -/
inductive CommandResult where
  /-- Of `set_key`, `tick_timers` and the run-state requests: nothing. -/
  | unit
  /-- Of `load`. -/
  | load (r : LoadResult)
  /-- Of `step`: its diagnostic. -/
  | step (d : Diag)
  deriving DecidableEq, Repr

/-- One command: the state after it and what it returns. -/
def runCommand (c : Command) (s : State) : Host.Outcome (State × CommandResult) Fault Refusal :=
  match c with
  | .load src => thenNext (load src s) fun r => .next (r.1.withoutDiag, .load r.2)
  | .setKey k p => .next ((setKey k p s).withoutDiag, .unit)
  | .step => thenNext (stepCommand s) fun r => .next (r.1, .step r.2)
  | .tickTimers => .next ((tickTimers s).withoutDiag, .unit)
  | .requestPause => .next ((requestPause s).withoutDiag, .unit)
  | .requestResume => .next ((requestResume s).withoutDiag, .unit)
  | .requestQuit => .next ((requestQuit s).withoutDiag, .unit)

/-! ## Sequences of commands -/

/-- Commands applied one at a time in the order the host issues them (R63), with what each returns, stopping at the first that has
no meaning. -/
def runCommands : List Command → State → Host.Outcome (State × List CommandResult) Fault Refusal
  | [], s => .next (s, [])
  | c :: cs, s =>
    thenNext (runCommand c s) fun r => thenNext (runCommands cs r.1) fun rs => .next (rs.1, r.2 :: rs.2)

/-- The state after one command. -/
def applyCommand (c : Command) (s : State) : Host.Outcome State Fault Refusal :=
  thenNext (runCommand c s) fun r => .next r.1

/-- The state after a sequence of commands. -/
def applyCommands (cs : List Command) (s : State) : Host.Outcome State Fault Refusal :=
  thenNext (runCommands cs s) fun r => .next r.1

end Sys2Proof.Machine
end

