-- ==== Sys2Proof/Safety.lean ====
section
/-! DEFINITION. What a legal state is: the relations between the fields of State that the spec fixes, which every step and every
host command keeps. -/

namespace Sys2Proof.Machine

/-- The legal states. -/
structure Legal (s : State) : Prop where
  /-- Memory is in its canonical form. -/
  memory : Memory.wf s.cfg s.mem = true
  /-- `0 <= SP <= STACK_DEPTH` (10_state.md R38). -/
  depth : s.SP.val ≤ s.cfg.stackDepth
  /-- The slots at and above STACK_DEPTH, which the block does not have, hold 0 (log entry 8). -/
  absentSlots : ∀ k : Fin 16, s.cfg.stackDepth ≤ k.val → s.stack[k] = 0
  /-- While awaiting a key, PC holds the address of the FX0A that was executed (10_state.md R35, 40_step_cycle.md R116). -/
  awaiting : ∀ x, s.await = some x → s.fetchError = none ∧ decodeWord s.fetchWord = .ok (.ldVxK x)
  /-- No press edge is recorded outside the awaiting-key sub-state (10_state.md R44). -/
  edges : s.await = none → ∀ k : Fin 16, s.kedge[k] = false

end Sys2Proof.Machine
end

