-- ==== Sys2Proof/Certificates/Slice0/Obligations.lean ====
section
/-! DEFINITION. The statements for the provers. `exec` runs an instruction in a state whose PC is the post-fetch value `a + 2`
(spec 40_step_cycle.md R112), so `s.PC - 2` is the instruction's own address. Where a docstring names a decision D<n> or a
general-knowledge passage GK<n>, the spec marks that point as its own choice, and the statement rests on that choice. `diag` is
the model's field that carries a step's diagnostic to the host (10_state.md R62); a statement about it rests on decision D25 and log
entry 3. -/

namespace Sys2Proof.Machine

/-! ## Words the statements use -/

/-- Every word that matches `m` under `mask` decodes to the instruction `i` makes of it. -/
def Encodes (mask m : Word) (i : Word → Instr) : Prop := ∀ op : Word, op &&& mask = m → decodeWord op = .ok (i op)

/-- Every byte of memory reads as before. -/
def SameMemory (s t : State) : Prop := ∀ a, t.readByte a = s.readByte a

/-- Nothing differs but V registers of the list `written`. -/
def RegsOnly (written : List RegSel) (s t : State) : Prop :=
  t = { s with V := t.V } ∧ (∀ k, k ∉ written → t.reg k = s.reg k) ∧ SameMemory s t

/-- Nothing differs but PC. -/
def PCOnly (s t : State) : Prop := t = { s with PC := t.PC } ∧ SameMemory s t

/-- Nothing differs but I. -/
def IOnly (s t : State) : Prop := t = { s with I := t.I } ∧ SameMemory s t

/-- Nothing differs but the bytes of memory at `base` to `base + count - 1`. -/
def BytesOnly (base count : Nat) (s t : State) : Prop :=
  t = { s with mem := t.mem } ∧ ∀ a, a < base ∨ base + count ≤ a → t.readByte a = s.readByte a

/-- The words that select no operation, as 30_encoding.md R97 lists them. -/
def UnknownWord (op : Word) : Prop :=
  let family := op.toNat / 4096
  let n := op.toNat % 16
  let nn := op.toNat % 256
  (family = 5 ∧ n ≠ 0) ∨
  (family = 8 ∧ n ∈ [0x8, 0x9, 0xA, 0xB, 0xC, 0xD, 0xF]) ∨
  (family = 9 ∧ n ≠ 0) ∨
  (family = 14 ∧ nn ∉ [0x9E, 0xA1]) ∨
  (family = 15 ∧ nn ∉ [0x07, 0x0A, 0x15, 0x18, 0x1E, 0x29, 0x33, 0x55, 0x65])

/-- The state from which a step fetches (40_step_cycle.md R110): Running, not awaiting a key, and a fetch at PC in range. -/
def ReadyToFetch (s : State) : Prop := s.run = .running ∧ s.await = none ∧ s.PC.toNat < 0x0FFF

/-- The opcode at PC, the byte at the lower address in bits 15 to 8. -/
def opcodeAt (s : State) : Word := s.readByte s.PC.toNat ++ s.readByte (s.PC.toNat + 1)

/-- The V registers that executing `i` may write (10_state.md R33). FX0A writes its register only when a later step completes it. -/
def regsWritten : Instr → List RegSel
  | .ldImm x _ | .addImm x _ | .ldReg x _ | .or x _ | .and x _ | .xor x _ | .rnd x _ | .ldVxDt x => [x]
  | .addReg x _ | .sub x _ | .shr x _ | .subn x _ | .shl x _ => [x, 0xF]
  | .drw _ _ _ => [0xF]
  | .ldVxI x => (List.range (x.toNat + 1)).map (BitVec.ofNat 4)
  | .cls | .ret | .sys _ | .jp _ | .call _ | .seImm _ _ | .sneImm _ _ | .seReg _ _ | .sneReg _ _ | .ldI _ | .jpV0 _
  | .skp _ | .sknp _ | .ldVxK _ | .ldDtVx _ | .ldStVx _ | .addIVx _ | .ldFVx _ | .ldBVx _ | .ldIVx _ => []

/-- The rows DXYN draws: `min(N, 32 - y0)` with `y0 = V[Y] mod 32` (44_display.md R201). -/
def spriteRows (s : State) (y : RegSel) (n : Nibble) : Nat := min n.toNat (32 - (s.reg y).toNat % 32)

/-- Whether DXYN draws at row `yy` and column `xx`: a drawn row, one of its 8 columns, and the sprite bit set (R202). -/
def spriteMask (s : State) (x y : RegSel) (n : Nibble) (yy xx : Nat) : Bool :=
  let x0 := (s.reg x).toNat % 64
  let y0 := (s.reg y).toNat % 32
  decide (y0 ≤ yy) && decide (yy - y0 < spriteRows s y n) && decide (x0 ≤ xx) && decide (xx - x0 < 8) &&
    (s.readByte (s.I.toNat + (yy - y0))).getLsbD (7 - (xx - x0))

/-- Only steps and ticks. -/
def Command.isStepOrTick : Command → Bool
  | .step => true
  | .tickTimers => true
  | .load _ | .setKey _ _ | .requestPause | .requestResume | .requestQuit => false

end Sys2Proof.Machine

open Sys2Proof Sys2Proof.Machine

/-! ## Encoding -/

/-- Decoding the word, or the bytes, of a well-formed instruction gives the instruction back, with every operand at every value
(30_encoding.md R91, R93, R95, R96). -/
def Obligations.DecodeOfEncodeIsIdentity : Prop :=
  ∀ i : Instr, i.wellFormed = true →
    decodeWord (encode i) = .ok i ∧ ∀ rest, decode (encodeBytes i ++ rest) = .ok (i, rest)

/-- A word that decodes is the word of the instruction it decodes to, and that instruction is well formed: no word has two
meanings and no bit is dropped, Y of 8XY6 and 8XYE included. -/
def Obligations.EncodeOfDecodeIsIdentity : Prop :=
  ∀ (op : Word) (i : Instr), decodeWord op = .ok i → encode i = op ∧ i.wellFormed = true

/-- Decoding fails exactly on the words of 30_encoding.md R97, by name (decision D8). -/
def Obligations.DecodeFailsExactlyOnUnknownWords : Prop :=
  ∀ op : Word,
    (UnknownWord op → decodeWord op = .error (.unknownOpcode op)) ∧ (¬UnknownWord op → ∃ i, decodeWord op = .ok i)

/-- The whole map of 30_encoding.md R95, row by row, with the fields of R91 (patterns of GK1, decisions D7 and D8). -/
def Obligations.OpcodeMapDecodes : Prop :=
  Encodes 0xFFFF 0x00E0 (fun _ => .cls) ∧
  Encodes 0xFFFF 0x00EE (fun _ => .ret) ∧
  (∀ op : Word, op &&& 0xF000 = 0x0000 → op ≠ 0x00E0 → op ≠ 0x00EE → decodeWord op = .ok (.sys (op.extractLsb' 0 12))) ∧
  Encodes 0xF000 0x1000 (fun op => .jp (op.extractLsb' 0 12)) ∧
  Encodes 0xF000 0x2000 (fun op => .call (op.extractLsb' 0 12)) ∧
  Encodes 0xF000 0x3000 (fun op => .seImm (op.extractLsb' 8 4) (op.extractLsb' 0 8)) ∧
  Encodes 0xF000 0x4000 (fun op => .sneImm (op.extractLsb' 8 4) (op.extractLsb' 0 8)) ∧
  Encodes 0xF00F 0x5000 (fun op => .seReg (op.extractLsb' 8 4) (op.extractLsb' 4 4)) ∧
  Encodes 0xF000 0x6000 (fun op => .ldImm (op.extractLsb' 8 4) (op.extractLsb' 0 8)) ∧
  Encodes 0xF000 0x7000 (fun op => .addImm (op.extractLsb' 8 4) (op.extractLsb' 0 8)) ∧
  Encodes 0xF00F 0x8000 (fun op => .ldReg (op.extractLsb' 8 4) (op.extractLsb' 4 4)) ∧
  Encodes 0xF00F 0x8001 (fun op => .or (op.extractLsb' 8 4) (op.extractLsb' 4 4)) ∧
  Encodes 0xF00F 0x8002 (fun op => .and (op.extractLsb' 8 4) (op.extractLsb' 4 4)) ∧
  Encodes 0xF00F 0x8003 (fun op => .xor (op.extractLsb' 8 4) (op.extractLsb' 4 4)) ∧
  Encodes 0xF00F 0x8004 (fun op => .addReg (op.extractLsb' 8 4) (op.extractLsb' 4 4)) ∧
  Encodes 0xF00F 0x8005 (fun op => .sub (op.extractLsb' 8 4) (op.extractLsb' 4 4)) ∧
  Encodes 0xF00F 0x8006 (fun op => .shr (op.extractLsb' 8 4) (op.extractLsb' 4 4)) ∧
  Encodes 0xF00F 0x8007 (fun op => .subn (op.extractLsb' 8 4) (op.extractLsb' 4 4)) ∧
  Encodes 0xF00F 0x800E (fun op => .shl (op.extractLsb' 8 4) (op.extractLsb' 4 4)) ∧
  Encodes 0xF00F 0x9000 (fun op => .sneReg (op.extractLsb' 8 4) (op.extractLsb' 4 4)) ∧
  Encodes 0xF000 0xA000 (fun op => .ldI (op.extractLsb' 0 12)) ∧
  Encodes 0xF000 0xB000 (fun op => .jpV0 (op.extractLsb' 0 12)) ∧
  Encodes 0xF000 0xC000 (fun op => .rnd (op.extractLsb' 8 4) (op.extractLsb' 0 8)) ∧
  Encodes 0xF000 0xD000 (fun op => .drw (op.extractLsb' 8 4) (op.extractLsb' 4 4) (op.extractLsb' 0 4)) ∧
  Encodes 0xF0FF 0xE09E (fun op => .skp (op.extractLsb' 8 4)) ∧
  Encodes 0xF0FF 0xE0A1 (fun op => .sknp (op.extractLsb' 8 4)) ∧
  Encodes 0xF0FF 0xF007 (fun op => .ldVxDt (op.extractLsb' 8 4)) ∧
  Encodes 0xF0FF 0xF00A (fun op => .ldVxK (op.extractLsb' 8 4)) ∧
  Encodes 0xF0FF 0xF015 (fun op => .ldDtVx (op.extractLsb' 8 4)) ∧
  Encodes 0xF0FF 0xF018 (fun op => .ldStVx (op.extractLsb' 8 4)) ∧
  Encodes 0xF0FF 0xF01E (fun op => .addIVx (op.extractLsb' 8 4)) ∧
  Encodes 0xF0FF 0xF029 (fun op => .ldFVx (op.extractLsb' 8 4)) ∧
  Encodes 0xF0FF 0xF033 (fun op => .ldBVx (op.extractLsb' 8 4)) ∧
  Encodes 0xF0FF 0xF055 (fun op => .ldIVx (op.extractLsb' 8 4)) ∧
  Encodes 0xF0FF 0xF065 (fun op => .ldVxI (op.extractLsb' 8 4))

/-- Ten words written out from the formats of 30_encoding.md R93, at least one for each instruction family of 95_test_vectors.md
sections 2.1 to 2.6. The patterns of 0x8126 and 0xC30F are general knowledge GK1 (log entry 12), and the refusal of 0x5121 is the
strict decode of decision D8 (log entry 11). -/
def Obligations.SampleWordsDecode : Prop :=
  decodeWord 0x00E0 = .ok .cls ∧ decodeWord 0x1234 = .ok (.jp 0x234) ∧ decodeWord 0x3342 = .ok (.seImm 3 0x42) ∧
  decodeWord 0x8126 = .ok (.shr 1 2) ∧ decodeWord 0xA2F0 = .ok (.ldI 0x2F0) ∧ decodeWord 0xC30F = .ok (.rnd 3 0x0F) ∧
  decodeWord 0xD015 = .ok (.drw 0 1 5) ∧ decodeWord 0xE09E = .ok (.skp 0) ∧ decodeWord 0xF265 = .ok (.ldVxI 2) ∧
  decodeWord 0x5121 = .error (.unknownOpcode 0x5121)

/-! ## The step cycle -/

/-- A step fetches the two bytes at PC and PC + 1 as a big-endian opcode (40_step_cycle.md R111), advances PC by 2 modulo 2^16
(R112), clears the diagnostic output (R118, decision D25, log entry 3), and then executes the instruction the opcode decodes to
(R110). When a step fetches at all is R110 and R117 (`ReadyToFetch`; decisions D4, D16, D29). -/
def Obligations.StepRunsTheDecodedInstruction : Prop :=
  ∀ (s : State) (i : Instr), ReadyToFetch s → decodeWord (opcodeAt s) = .ok i →
    step s = exec i { s with PC := s.PC + 2, diag := .none }

/-- A word of 30_encoding.md R97 is a no-op that raises UnknownOpcode; execution continues at `a + 2` (40_step_cycle.md R115,
60_exceptions.md R242). The list of R97 is decision D8. -/
def Obligations.UnknownOpcodeIsNoOp : Prop :=
  ∀ s : State, ReadyToFetch s → UnknownWord (opcodeAt s) →
    step s = .next { s with PC := s.PC + 2, diag := .unknownOpcode (opcodeAt s) }

/-- A fetch at PC >= 0x0FFF raises AddressError and changes nothing, and so does every later step (40_step_cycle.md R117, decision
D4): the host gets the same AddressError from each, beside an unchanged state. -/
def Obligations.FetchOutOfRangeMakesNoProgress : Prop :=
  ∀ (s : State) (n : Nat), s.run = .running → s.await = none → 0x0FFF ≤ s.PC.toNat →
    step s = .next { s with diag := .addressError (max s.PC.toNat 4096) } ∧
    runCommands (List.replicate (n + 1) .step) s =
      .next ({ s with diag := .none }, List.replicate (n + 1) (.step (.addressError (max s.PC.toNat 4096))))

/-- In Paused and in Halted no sequence of steps and ticks changes any state item, and each step returns None (60_exceptions.md R257,
decision D29; 40_step_cycle.md R118, decision D25). A diagnostic that `s` may still carry is no item of the state (log entry 3): it is
dropped, and a state between commands carries none. -/
def Obligations.StepsAndTicksAreFrozenUnlessRunning : Prop :=
  ∀ (cs : List Command) (s : State), s.run ≠ .running → cs.all Command.isStepOrTick = true →
    ∃ d rs, runCommands cs s = .next ({ s with diag := d }, rs) ∧ (s.diag = .none → d = .none) ∧
      ∀ r, r ∈ rs → r = .unit ∨ r = .step .none

/-- Whatever the state, a step answers a next state: no word, no address and no stack depth stops the machine (40_step_cycle.md
R114, 60_exceptions.md R240). That a data access or a fetch out of range does not stop it either is decisions D3 and D4 (R74, R117),
where 93_implementation_defined.md U1 and U2 would let a model fault: the model's reading, log entry 4 (DEDUCED). -/
def Obligations.EveryStepAnswersANextState : Prop :=
  ∀ s : State, ∃ t, step s = .next t

/-- While awaiting a key, a step with no recorded edge changes nothing; with edges, the least edged key goes to VX, the
sub-state is left, the edges are cleared and PC advances by 2 (45_timers_keys.md R226, decision D16). -/
def Obligations.AwaitStepCompletesOnTheLeastEdge : Prop :=
  ∀ (s : State) (x : RegSel), s.run = .running → s.await = some x →
    ((∀ k : Fin 16, s.kedge[k] = false) → step s = .next { s with diag := .none }) ∧
    (∀ k : Fin 16, s.kedge[k] = true → (∀ j : Fin 16, j < k → s.kedge[j] = false) →
      ∃ t, step s = .next t ∧ (t.reg x).toNat = k.val ∧ t.await = none ∧ (∀ j : Fin 16, t.kedge[j] = false) ∧
        t.PC = s.PC + 2 ∧ t.diag = .none ∧ (∀ j, j ≠ x → t.reg j = s.reg j) ∧ SameMemory s t ∧
        t = { s with V := t.V, await := t.await, kedge := t.kedge, PC := t.PC, diag := t.diag })

/-- The legal states of Safety.lean are kept by every step: memory stays canonical, SP stays within STACK_DEPTH, and an awaiting
machine stands at the FX0A it executed (10_state.md R35, R38, R44; 40_step_cycle.md R116; log entries 8 and 9). -/
def Obligations.StepKeepsLegalStates : Prop :=
  ∀ s t : State, Legal s → step s = .next t → Legal t

/-- The legal states are kept by every sequence of host commands, in whatever order the host issues them
(10_state.md R63, 70_reset_and_hazards.md R301). -/
def Obligations.CommandSequencesKeepLegalStates : Prop :=
  ∀ (cs : List Command) (s t : State), Legal s → applyCommands cs s = .next t → Legal t

/-- Power-on is legal under every configuration, so reset is. -/
def Obligations.PowerOnIsLegal : Prop :=
  (∀ c : Config, Legal (State.powerOn c)) ∧ Legal State.reset

/-- The diagnostic of one step has no effect on the next (60_exceptions.md R247): a step does not read the output port. -/
def Obligations.StepDoesNotReadTheDiagnostic : Prop :=
  ∀ (s : State) (d : Diag), step { s with diag := d } = step s

/-- The diagnostic is not stored in the state; the host sees it only as the result of the step that raised it (60_exceptions.md R241,
R248; 10_state.md R30, R62; decision D25, log entry 3). The state after any command carries none; `step()` returns, beside that state,
the diagnostic of the step; no other command returns one; and no command, its result included, depends on one that the state before it
may carry. -/
def Obligations.DiagnosticIsOnlyTheResultOfItsStep : Prop :=
  (∀ (c : Command) (s t : State) (r : CommandResult), runCommand c s = .next (t, r) → t.diag = .none) ∧
  (∀ s t : State, step s = .next t → runCommand .step s = .next ({ t with diag := .none }, .step t.diag)) ∧
  (∀ (c : Command) (s t : State) (d : Diag), runCommand c s = .next (t, .step d) → c = .step) ∧
  (∀ (c : Command) (s : State) (d : Diag), runCommand c { s with diag := d } = runCommand c s)

/-- Who raises which diagnostic, with what code and what info (the table of 60_exceptions.md R241, decision D25, log entry 3): for
every step, whatever the state, its diagnostic is None, or UnknownOpcode of the fetched word, or StackOverflow (StackUnderflow) of the
address of the 2NNN (00EE) executed, or AddressError of the lowest address at or above 0x1000 that the fetch, or the data accesses from
I of DXYN, FX33, FX55 or FX65, would have touched. -/
def Obligations.DiagnosticsRaisedOnlyAsListed : Prop :=
  ∀ s t : State, step s = .next t →
    (t.diag = .none ∧ t.diag.code = 0) ∨
    (ReadyToFetch s ∧ UnknownWord (opcodeAt s) ∧ t.diag = .unknownOpcode (opcodeAt s) ∧ t.diag.code = 1) ∨
    (ReadyToFetch s ∧ (∃ nnn, decodeWord (opcodeAt s) = .ok (.call nnn)) ∧ t.diag = .stackOverflow s.PC ∧ t.diag.code = 2) ∨
    (ReadyToFetch s ∧ decodeWord (opcodeAt s) = .ok .ret ∧ t.diag = .stackUnderflow s.PC ∧ t.diag.code = 3) ∨
    (s.run = .running ∧ s.await = none ∧ 0x0FFF ≤ s.PC.toNat ∧ t.diag = .addressError (max s.PC.toNat 4096) ∧ t.diag.code = 4) ∨
    (ReadyToFetch s ∧
      ((∃ x y n, decodeWord (opcodeAt s) = .ok (.drw x y n)) ∨ (∃ x, decodeWord (opcodeAt s) = .ok (.ldBVx x)) ∨
        (∃ x, decodeWord (opcodeAt s) = .ok (.ldIVx x)) ∨ ∃ x, decodeWord (opcodeAt s) = .ok (.ldVxI x)) ∧
      t.diag = .addressError (max s.I.toNat 4096) ∧ t.diag.code = 4)

/-- Call-stack entries at or above SP are not observable: two states that differ only in them step to states that differ only in
such entries (10_state.md R39). -/
def Obligations.DeadStackEntriesAreUnobservable : Prop :=
  ∀ (s t : State) (stack' : Vector Word 16), (∀ k : Fin 16, k.val < s.SP.val → stack'[k] = s.stack[k]) →
    step s = .next t →
    ∃ t', step { s with stack := stack' } = .next t' ∧ t' = { t with stack := t'.stack } ∧
      ∀ k : Fin 16, k.val < t.SP.val → t'.stack[k] = t.stack[k]

/-! ## Who writes what -/

/-- A V register outside the list of 10_state.md R33 is unchanged by every instruction. -/
def Obligations.RegistersWrittenOnlyAsListed : Prop :=
  ∀ (i : Instr) (s t : State), exec i s = .next t → ∀ k, k ∉ regsWritten i → t.reg k = s.reg k

/-- Each other item of the state is written only by the instructions the spec lists: I by ANNN, FX1E and FX29 (10_state.md R34); the
call stack by 2NNN and 00EE (R39); the display by 00E0 and DXYN (R40); DT by FX15 (R41); ST by FX18 (R42); the awaiting sub-state by
FX0A (R44); memory by FX33 and FX55; and the latch and the run state by none (R43, R45). The parameters never change, and only CXNN
consumes a draw (the model's own fields, log entries 1 and 2). -/
def Obligations.StateItemsWrittenOnlyAsListed : Prop :=
  ∀ (i : Instr) (s t : State), exec i s = .next t →
    (t.I ≠ s.I → (∃ nnn, i = .ldI nnn) ∨ (∃ x, i = .addIVx x) ∨ ∃ x, i = .ldFVx x) ∧
    (t.stack ≠ s.stack → ∃ nnn, i = .call nnn) ∧
    (t.SP ≠ s.SP → i = .ret ∨ ∃ nnn, i = .call nnn) ∧
    (t.disp ≠ s.disp → i = .cls ∨ ∃ x y n, i = .drw x y n) ∧
    (t.DT ≠ s.DT → ∃ x, i = .ldDtVx x) ∧
    (t.ST ≠ s.ST → ∃ x, i = .ldStVx x) ∧
    (t.await ≠ s.await ∨ t.kedge ≠ s.kedge → ∃ x, i = .ldVxK x) ∧
    ((∃ a, t.readByte a ≠ s.readByte a) → (∃ x, i = .ldBVx x) ∨ ∃ x, i = .ldIVx x) ∧
    (t.draws ≠ s.draws → ∃ x nn, i = .rnd x nn) ∧
    t.key = s.key ∧ t.run = s.run ∧ t.cfg = s.cfg

/-- How a step that fetches moves PC (10_state.md R36, decision D6): by +2 for the fetch; by a further +2 for a taken skip; to the
target of 1NNN, 2NNN, BNNN or 00EE, where a full stack keeps 2NNN and an empty one 00EE at +2 (41_control_flow.md R131, R133); back to
the FX0A on entry to the awaiting sub-state (decision D16). `s` is the state that fetches, so `s.PC` is the instruction's address. At
a depth above STACK_DEPTH, which no run reaches (log entry 9), the statement leaves open which of its two moves 2NNN makes. -/
def Obligations.ProgramCounterMovesOnlyAsListed : Prop :=
  ∀ (s t : State) (i : Instr), ReadyToFetch s → decodeWord (opcodeAt s) = .ok i → step s = .next t →
    match i with
    | .jp nnn => t.PC = nnn.setWidth 16
    | .call nnn =>
      (t.PC = nnn.setWidth 16 ∨ t.PC = s.PC + 2) ∧ (s.SP.val < s.cfg.stackDepth → t.PC = nnn.setWidth 16) ∧
        (s.SP.val = s.cfg.stackDepth → t.PC = s.PC + 2)
    | .jpV0 nnn => t.PC = nnn.setWidth 16 + (s.reg 0).setWidth 16
    | .ret => (∀ k : Fin 16, s.SP.val = k.val + 1 → t.PC = s.stack[k]) ∧ (s.SP.val = 0 → t.PC = s.PC + 2)
    | .seImm _ _ | .sneImm _ _ | .seReg _ _ | .sneReg _ _ | .skp _ | .sknp _ => t.PC = s.PC + 4 ∨ t.PC = s.PC + 2
    | .ldVxK _ => t.PC = s.PC
    | _ => t.PC = s.PC + 2

/-! ## Control flow -/

/-- 0NNN is a no-op without a diagnostic (41_control_flow.md R130, decision D7). -/
def Obligations.SysIsNoOp : Prop :=
  ∀ (nnn : Addr12) (s : State), exec (.sys nnn) s = .next s

/-- 1NNN jumps to NNN and changes nothing else. -/
def Obligations.JumpSetsPCToTarget : Prop :=
  Encodes 0xF000 0x1000 (fun op => .jp (op.extractLsb' 0 12)) ∧
  ∀ (nnn : Addr12) (s : State), ∃ t, exec (.jp nnn) s = .next t ∧ t.PC.toNat = nnn.toNat ∧ PCOnly s t

/-- BNNN jumps to NNN + V0; the sum is at most 0x10FE, so it never wraps (41_control_flow.md R138, decision D13). -/
def Obligations.JumpV0AddsTheOffset : Prop :=
  ∀ (nnn : Addr12) (s : State),
    ∃ t, exec (.jpV0 nnn) s = .next t ∧ t.PC.toNat = nnn.toNat + (s.reg 0).toNat ∧ t.PC.toNat ≤ 0x10FE ∧ PCOnly s t

/-- 2NNN pushes the post-fetch PC and jumps; on a full stack it raises StackOverflow with its own address and changes nothing. -/
def Obligations.CallPushesReturnAddressOrOverflows : Prop :=
  Encodes 0xF000 0x2000 (fun op => .call (op.extractLsb' 0 12)) ∧
  ∀ (nnn : Addr12) (s : State),
    (s.SP.val < s.cfg.stackDepth →
      ∃ t, exec (.call nnn) s = .next t ∧ (∀ k : Fin 16, t.stack[k] = if k.val = s.SP.val then s.PC else s.stack[k]) ∧
        t.SP.val = s.SP.val + 1 ∧ t.PC.toNat = nnn.toNat ∧ SameMemory s t ∧
        t = { s with stack := t.stack, SP := t.SP, PC := t.PC }) ∧
    (s.SP.val = s.cfg.stackDepth → exec (.call nnn) s = .next { s with diag := .stackOverflow (s.PC - 2) })

/-- 00EE pops the top entry into PC; on an empty stack it raises StackUnderflow with its own address and changes nothing. -/
def Obligations.ReturnPopsPCOrUnderflows : Prop :=
  Encodes 0xFFFF 0x00EE (fun _ => .ret) ∧
  ∀ s : State,
    (∀ k : Fin 16, s.SP.val = k.val + 1 →
      ∃ t, exec .ret s = .next t ∧ t.SP.val = k.val ∧ t.PC = s.stack[k] ∧ SameMemory s t ∧
        t = { s with SP := t.SP, PC := t.PC }) ∧
    (s.SP.val = 0 → exec .ret s = .next { s with diag := .stackUnderflow (s.PC - 2) })

/-- A return after a call, in any later state with the call's stack and depth, resumes after the call at the depth before it
(95_test_vectors.md S7; 41_control_flow.md R131, R133). -/
def Obligations.ReturnResumesAfterTheCall : Prop :=
  ∀ (nnn : Addr12) (s t u : State), s.SP.val < s.cfg.stackDepth → exec (.call nnn) s = .next t →
    u.stack = t.stack → u.SP = t.SP → ∃ v, exec .ret u = .next v ∧ v.PC = s.PC ∧ v.SP = s.SP

/-- 3XNN skips when VX = NN, 4XNN when VX differs; nothing but PC changes. -/
def Obligations.ImmediateSkipsCompare : Prop :=
  Encodes 0xF000 0x3000 (fun op => .seImm (op.extractLsb' 8 4) (op.extractLsb' 0 8)) ∧
  Encodes 0xF000 0x4000 (fun op => .sneImm (op.extractLsb' 8 4) (op.extractLsb' 0 8)) ∧
  ∀ (x : RegSel) (nn : Byte) (s : State),
    (∃ t, exec (.seImm x nn) s = .next t ∧ t.PC = (if s.reg x = nn then s.PC + 2 else s.PC) ∧ PCOnly s t) ∧
    (∃ t, exec (.sneImm x nn) s = .next t ∧ t.PC = (if s.reg x = nn then s.PC else s.PC + 2) ∧ PCOnly s t)

/-- 5XY0 skips when VX = VY, 9XY0 when they differ; X = Y always and never skips (41_control_flow.md R136, R137; GK1, D8). -/
def Obligations.RegisterSkipsCompare : Prop :=
  ∀ (x y : RegSel) (s : State),
    (∃ t, exec (.seReg x y) s = .next t ∧ t.PC = (if s.reg x = s.reg y then s.PC + 2 else s.PC) ∧ PCOnly s t) ∧
    (∃ t, exec (.sneReg x y) s = .next t ∧ t.PC = (if s.reg x = s.reg y then s.PC else s.PC + 2) ∧ PCOnly s t)

/-! ## Registers and ALU -/

/-- 6XNN loads NN into VX and changes nothing else. -/
def Obligations.LoadImmediateSetsRegister : Prop :=
  Encodes 0xF000 0x6000 (fun op => .ldImm (op.extractLsb' 8 4) (op.extractLsb' 0 8)) ∧
  ∀ (x : RegSel) (nn : Byte) (s : State), ∃ t, exec (.ldImm x nn) s = .next t ∧ t.reg x = nn ∧ RegsOnly [x] s t

/-- 7XNN adds modulo 256 and writes no flag: for X other than F, VF is unchanged even when the sum carries. -/
def Obligations.AddImmediateWrapsWithoutFlag : Prop :=
  Encodes 0xF000 0x7000 (fun op => .addImm (op.extractLsb' 8 4) (op.extractLsb' 0 8)) ∧
  ∀ (x : RegSel) (nn : Byte) (s : State), ∃ t, exec (.addImm x nn) s = .next t ∧
    (t.reg x).toNat = ((s.reg x).toNat + nn.toNat) % 256 ∧ RegsOnly [x] s t

/-- 8XY0 copies, 8XY1, 8XY2 and 8XY3 are the bitwise OR, AND and XOR; VF is not reset (42_register_alu.md R152 to R155; GK4,
decision D9). -/
def Obligations.CopyAndLogicWriteOneRegister : Prop :=
  ∀ (x y : RegSel) (s : State),
    (∃ t, exec (.ldReg x y) s = .next t ∧ t.reg x = s.reg y ∧ RegsOnly [x] s t) ∧
    (∃ t, exec (.or x y) s = .next t ∧ (∀ b, (t.reg x).getLsbD b = ((s.reg x).getLsbD b || (s.reg y).getLsbD b)) ∧
      RegsOnly [x] s t) ∧
    (∃ t, exec (.and x y) s = .next t ∧ (∀ b, (t.reg x).getLsbD b = ((s.reg x).getLsbD b && (s.reg y).getLsbD b)) ∧
      RegsOnly [x] s t) ∧
    (∃ t, exec (.xor x y) s = .next t ∧ (∀ b, (t.reg x).getLsbD b = ((s.reg x).getLsbD b ^^ (s.reg y).getLsbD b)) ∧
      RegsOnly [x] s t)

/-- 8XY4: VX is the sum modulo 256 and VF the carry out of bit 7; with X = F the flag is what VF holds (42_register_alu.md R156; GK4,
decision D10). -/
def Obligations.AddRegistersSetsCarry : Prop :=
  ∀ (x y : RegSel) (s : State), ∃ t, exec (.addReg x y) s = .next t ∧
    (x ≠ 0xF → (t.reg x).toNat = ((s.reg x).toNat + (s.reg y).toNat) % 256) ∧
    t.reg 0xF = (if 256 ≤ (s.reg x).toNat + (s.reg y).toNat then 1 else 0) ∧ RegsOnly [x, 0xF] s t

/-- 8XY5 is VX - VY and 8XY7 is VY - VX, modulo 256, with VF = 1 when no borrow occurs, equal operands included; with X = F the flag is
what VF holds (42_register_alu.md R157, R159; GK4, decisions D10, D11). -/
def Obligations.SubtractionsSetNoBorrow : Prop :=
  ∀ (x y : RegSel) (s : State),
    (∃ t, exec (.sub x y) s = .next t ∧
      (x ≠ 0xF → (t.reg x).toNat = ((s.reg x).toNat + 256 - (s.reg y).toNat) % 256) ∧
      t.reg 0xF = (if (s.reg y).toNat ≤ (s.reg x).toNat then 1 else 0) ∧ RegsOnly [x, 0xF] s t) ∧
    (∃ t, exec (.subn x y) s = .next t ∧
      (x ≠ 0xF → (t.reg x).toNat = ((s.reg y).toNat + 256 - (s.reg x).toNat) % 256) ∧
      t.reg 0xF = (if (s.reg x).toNat ≤ (s.reg y).toNat then 1 else 0) ∧ RegsOnly [x, 0xF] s t)

/-- 8XY6 halves VX and 8XYE doubles it modulo 256; VF is the bit shifted out; Y has no effect (42_register_alu.md R158, R160; GK4,
decisions D10, D12). -/
def Obligations.ShiftsMoveOneBitIntoFlag : Prop :=
  ∀ (x y : RegSel) (s : State),
    (∃ t, exec (.shr x y) s = .next t ∧ (x ≠ 0xF → (t.reg x).toNat = (s.reg x).toNat / 2) ∧
      t.reg 0xF = (if (s.reg x).getLsbD 0 then 1 else 0) ∧ RegsOnly [x, 0xF] s t) ∧
    (∃ t, exec (.shl x y) s = .next t ∧ (x ≠ 0xF → (t.reg x).toNat = (s.reg x).toNat * 2 % 256) ∧
      t.reg 0xF = (if (s.reg x).getLsbD 7 then 1 else 0) ∧ RegsOnly [x, 0xF] s t) ∧
    (∀ y', exec (.shr x y') s = exec (.shr x y) s ∧ exec (.shl x y') s = exec (.shl x y) s)

/-- CXNN writes the step's draw ANDed with NN, so every bit outside NN is 0, whatever the draw; no flag (42_register_alu.md R161; GK9,
decision D14). The draw is the free value `Config.randomDraw` at the model's own counter (log entry 2). -/
def Obligations.RandomIsMaskedDraw : Prop :=
  ∀ (x : RegSel) (nn : Byte) (s : State), ∃ t, exec (.rnd x nn) s = .next t ∧
    t.reg x = Config.randomDraw s.draws &&& nn ∧ (∀ b, nn.getLsbD b = false → (t.reg x).getLsbD b = false) ∧
    t.draws = s.draws + 1 ∧ (∀ k, k ≠ x → t.reg k = s.reg k) ∧ SameMemory s t ∧ t = { s with V := t.V, draws := t.draws }

/-! ## Index register and memory -/

/-- ANNN loads NNN into I and changes nothing else. -/
def Obligations.LoadIndexSetsI : Prop :=
  Encodes 0xF000 0xA000 (fun op => .ldI (op.extractLsb' 0 12)) ∧
  ∀ (nnn : Addr12) (s : State), ∃ t, exec (.ldI nnn) s = .next t ∧ t.I.toNat = nnn.toNat ∧ IOnly s t

/-- FX1E adds VX to I modulo 2^16 and writes no flag (43_index_memory.md R181; GK5, decision D6). FX29 points I at the glyph of the low
nibble of VX, so I is at most 0x004B (R182, decision D15). -/
def Obligations.IndexAddAndGlyphAddress : Prop :=
  ∀ (x : RegSel) (s : State),
    (∃ t, exec (.addIVx x) s = .next t ∧ t.I.toNat = (s.I.toNat + (s.reg x).toNat) % 65536 ∧ IOnly s t) ∧
    (∃ t, exec (.ldFVx x) s = .next t ∧ t.I.toNat = 5 * ((s.reg x).toNat % 16) ∧ t.I.toNat ≤ 0x004B ∧ IOnly s t)

/-- FX33 stores the hundreds, tens and units of VX at I, I + 1 and I + 2 and nothing else; past the end of memory it raises
AddressError and stores nothing (43_index_memory.md R183; GK5, decision D3). Reading the digits back is of a canonical memory, which
every step keeps (StepKeepsLegalStates). -/
def Obligations.BcdStoresThreeDigits : Prop :=
  ∀ (x : RegSel) (s : State),
    (s.I.toNat + 2 < 4096 →
      ∃ t, exec (.ldBVx x) s = .next t ∧ BytesOnly s.I.toNat 3 s t ∧
        (Memory.wf s.cfg s.mem = true →
          (t.readByte s.I.toNat).toNat = (s.reg x).toNat / 100 ∧
          (t.readByte (s.I.toNat + 1)).toNat = (s.reg x).toNat / 10 % 10 ∧
          (t.readByte (s.I.toNat + 2)).toNat = (s.reg x).toNat % 10)) ∧
    (4096 ≤ s.I.toNat + 2 → exec (.ldBVx x) s = .next { s with diag := .addressError (max s.I.toNat 4096) })

/-- FX55 stores V0 to VX at I to I + X and nothing else, I unchanged; past the end of memory it raises AddressError and stores nothing
(43_index_memory.md R184; GK5, decisions D3, D17). -/
def Obligations.BlockStoreWritesRegisters : Prop :=
  ∀ (x : RegSel) (s : State),
    (s.I.toNat + x.toNat < 4096 →
      ∃ t, exec (.ldIVx x) s = .next t ∧ BytesOnly s.I.toNat (x.toNat + 1) s t ∧
        (Memory.wf s.cfg s.mem = true → ∀ k : RegSel, k.toNat ≤ x.toNat → t.readByte (s.I.toNat + k.toNat) = s.reg k)) ∧
    (4096 ≤ s.I.toNat + x.toNat → exec (.ldIVx x) s = .next { s with diag := .addressError (max s.I.toNat 4096) })

/-- FX65 loads V0 to VX from I to I + X, I and the other registers unchanged; past the end of memory it raises AddressError and loads
nothing (43_index_memory.md R185; GK5, decisions D3, D17). -/
def Obligations.BlockLoadReadsRegisters : Prop :=
  ∀ (x : RegSel) (s : State),
    (s.I.toNat + x.toNat < 4096 →
      ∃ t, exec (.ldVxI x) s = .next t ∧
        (∀ k : RegSel, t.reg k = if k.toNat ≤ x.toNat then s.readByte (s.I.toNat + k.toNat) else s.reg k) ∧
        SameMemory s t ∧ t = { s with V := t.V }) ∧
    (4096 ≤ s.I.toNat + x.toNat → exec (.ldVxI x) s = .next { s with diag := .addressError (max s.I.toNat 4096) })

/-- What FX55 stored, a later FX65 with the same I and memory loads back, whatever the registers hold by then
(43_index_memory.md R184, R185). -/
def Obligations.BlockStoreThenLoadRestoresRegisters : Prop :=
  ∀ (x : RegSel) (s t u : State), Legal s → s.I.toNat + x.toNat < 4096 → exec (.ldIVx x) s = .next t →
    u.mem = t.mem → u.cfg = t.cfg → u.I = t.I →
    ∃ v, exec (.ldVxI x) u = .next v ∧ ∀ k : RegSel, k.toNat ≤ x.toNat → v.reg k = s.reg k

/-! ## Display -/

/-- 00E0 turns every pixel off and changes nothing else, VF included. -/
def Obligations.ClearTurnsEveryPixelOff : Prop :=
  Encodes 0xFFFF 0x00E0 (fun _ => .cls) ∧
  ∀ s : State, ∃ t, exec .cls s = .next t ∧ (∀ y x, y < 32 → x < 64 → Display.pixel t.disp y x = false) ∧
    SameMemory s t ∧ t = { s with disp := t.disp }

/-- DXYN: the loop of 44_display.md R201 leaves the display XOR the sprite mask and sets VF to 1 exactly when a drawn pixel was on
before (R202); coordinates start modulo the screen and are clipped at its edges; a drawn row outside memory raises AddressError and
nothing changes (decisions D3, D18). -/
def Obligations.DrawIsXorWithCollisionFlag : Prop :=
  ∀ (x y : RegSel) (n : Nibble) (s : State),
    (spriteRows s y n = 0 ∨ s.I.toNat + spriteRows s y n ≤ 4096 →
      ∃ t, exec (.drw x y n) s = .next t ∧
        (∀ yy xx, yy < 32 → xx < 64 →
          Display.pixel t.disp yy xx = (Display.pixel s.disp yy xx ^^ spriteMask s x y n yy xx)) ∧
        ((∃ yy xx, yy < 32 ∧ xx < 64 ∧ spriteMask s x y n yy xx = true ∧ Display.pixel s.disp yy xx = true) →
          t.reg 0xF = 1) ∧
        (¬(∃ yy xx, yy < 32 ∧ xx < 64 ∧ spriteMask s x y n yy xx = true ∧ Display.pixel s.disp yy xx = true) →
          t.reg 0xF = 0) ∧
        (∀ k, k ≠ 0xF → t.reg k = s.reg k) ∧ SameMemory s t ∧ t = { s with disp := t.disp, V := t.V }) ∧
    (0 < spriteRows s y n → 4096 < s.I.toNat + spriteRows s y n →
      exec (.drw x y n) s = .next { s with diag := .addressError (max s.I.toNat 4096) })

/-- Drawing the same sprite again at the same place restores the display, and sets VF if the first draw met no pixel that was on and
drew at least one (95_test_vectors.md S6; 44_display.md R201, R202). X and Y are not F, since the first draw writes VF. -/
def Obligations.DrawTwiceRestoresTheDisplay : Prop :=
  ∀ (x y : RegSel) (n : Nibble) (s t : State), x ≠ 0xF → y ≠ 0xF →
    (spriteRows s y n = 0 ∨ s.I.toNat + spriteRows s y n ≤ 4096) → exec (.drw x y n) s = .next t →
    ∃ u, exec (.drw x y n) t = .next u ∧ u.disp = s.disp ∧
      (t.reg 0xF = 0 → (∃ yy xx, yy < 32 ∧ xx < 64 ∧ spriteMask s x y n yy xx = true) → u.reg 0xF = 1)

/-! ## Timers and keys -/

/-- FX07 reads DT into VX, FX15 writes DT and FX18 writes ST from VX; nothing else changes (45_timers_keys.md R220 to R222, GK6). -/
def Obligations.TimerMovesCopyOneByte : Prop :=
  ∀ (x : RegSel) (s : State),
    (∃ t, exec (.ldVxDt x) s = .next t ∧ t.reg x = s.DT ∧ RegsOnly [x] s t) ∧
    (∃ t, exec (.ldDtVx x) s = .next t ∧ t.DT = s.reg x ∧ t = { s with DT := t.DT } ∧ SameMemory s t) ∧
    (∃ t, exec (.ldStVx x) s = .next t ∧ t.ST = s.reg x ∧ t = { s with ST := t.ST } ∧ SameMemory s t)

/-- EX9E skips when the key numbered by the low nibble of VX is pressed, EXA1 when it is not; nothing but PC changes
(45_timers_keys.md R223, R224; GK6, decision D15). -/
def Obligations.KeySkipsTestTheLatch : Prop :=
  ∀ (x : RegSel) (k : Fin 16) (s : State), (s.reg x).toNat % 16 = k.val →
    (∃ t, exec (.skp x) s = .next t ∧ t.PC = (if s.key[k] = true then s.PC + 2 else s.PC) ∧ PCOnly s t) ∧
    (∃ t, exec (.sknp x) s = .next t ∧ t.PC = (if s.key[k] = true then s.PC else s.PC + 2) ∧ PCOnly s t)

/-- FX0A enters the awaiting-key sub-state: the register is noted, no edge is recorded, PC is its own address again, and VX is not
yet written (45_timers_keys.md R225, decision D16). -/
def Obligations.WaitForKeyEntersTheSubState : Prop :=
  ∀ (x : RegSel) (s : State), ∃ t, exec (.ldVxK x) s = .next t ∧ t.await = some x ∧
    (∀ k : Fin 16, t.kedge[k] = false) ∧ t.PC = s.PC - 2 ∧ SameMemory s t ∧
    t = { s with await := t.await, kedge := t.kedge, PC := t.PC }

/-! ## Host commands -/

/-- `set_key(k, p)` writes the latch in every run state and, while awaiting a key, records a released-to-pressed edge; a release
never clears an edge (60_exceptions.md R265, R266; decisions D16, D23). -/
def Obligations.SetKeyRecordsPressEdges : Prop :=
  ∀ (k : Nibble) (p : Bool) (s : State),
    (∀ j : Fin 16, (setKey k p s).key[j] = if j.val = k.toNat then p else s.key[j]) ∧
    (∀ j : Fin 16, (setKey k p s).kedge[j] =
      (s.kedge[j] || (decide (j.val = k.toNat) && s.await.isSome && p && !s.key[j]))) ∧
    setKey k p s = { s with key := (setKey k p s).key, kedge := (setKey k p s).kedge }

/-- From Running, n ticks lower each timer by n and never below 0, an awaited key notwithstanding, and change nothing else; in
Paused and Halted a tick changes nothing (60_exceptions.md R260, 95_test_vectors.md S9; decision D24). A diagnostic that `s` may still
carry is no item of the state (log entry 3); where it carries none, neither does the state after. -/
def Obligations.TicksCountTimersDown : Prop :=
  ∀ (n : Nat) (s : State),
    (s.run = .running →
      ∃ t, applyCommands (List.replicate n .tickTimers) s = .next t ∧ t.DT.toNat = s.DT.toNat - n ∧
        t.ST.toNat = s.ST.toNat - n ∧ t.soundActive = decide (n < s.ST.toNat) ∧
        t = { s with DT := t.DT, ST := t.ST, diag := t.diag } ∧ (s.diag = .none → t.diag = .none)) ∧
    (s.run ≠ .running → tickTimers s = s)

/-- The transitions of the run state, and that a request changes nothing but the run state (60_exceptions.md R252 to R255;
decision D22). -/
def Obligations.RunStateRequestsFollowTheTable : Prop :=
  ∀ s : State,
    requestPause s = { s with run := if s.run = .running then .paused else s.run } ∧
    requestResume s = { s with run := if s.run = .paused then .running else s.run } ∧
    requestQuit s = { s with run := .halted }

/-- Halted is terminal: no sequence of commands leaves it, and of the state only the latch and its edges change
(60_exceptions.md R256; decisions D21, D23). A diagnostic that `s` may still carry is no item of the state (log entry 3); where it
carries none, neither does the state after. -/
def Obligations.HaltedIsTerminal : Prop :=
  ∀ (cs : List Command) (s t : State), s.run = .halted → applyCommands cs s = .next t →
    t = { s with key := t.key, kedge := t.kedge, diag := t.diag } ∧ (s.diag = .none → t.diag = .none)

/-- A load that fails changes nothing; one in Halted that would succeed is refused (log entry 5); one that succeeds writes FONT and
the image, resets registers, stack, timers and the awaiting sub-state, sets PC to 0x200 and run to Running, and leaves the display, the
latch and the rest of memory (70_reset_and_hazards.md R282, R283, R285, R286; decisions D20, D21, D34). -/
def Obligations.LoadInstallsTheImage : Prop :=
  ∀ (bytes : List Byte) (s : State),
    load none s = .next (s, .error .ioFailure) ∧
    (3584 < bytes.length → load (some bytes) s = .next (s, .error .imageTooLarge)) ∧
    (bytes.length ≤ 3584 → s.run = .halted → load (some bytes) s = .refused .loadInHalted) ∧
    (bytes.length ≤ 3584 → s.run ≠ .halted →
      ∃ t, load (some bytes) s = .next (t, .ok) ∧
        (Memory.wf s.cfg s.mem = true →
          (∀ j, (h : j < bytes.length) → t.readByte (0x200 + j) = bytes[j]) ∧
          (∀ k : Fin 80, t.readByte k.val = s.cfg.font[k])) ∧
        (∀ a, 80 ≤ a → a < 0x200 ∨ 0x200 + bytes.length ≤ a → t.readByte a = s.readByte a) ∧
        (∀ k, t.reg k = 0) ∧ t.I = 0 ∧ t.PC = 0x200 ∧ t.SP = 0 ∧ (∀ k : Fin 16, t.stack[k] = 0) ∧ t.DT = 0 ∧ t.ST = 0 ∧
        t.await = none ∧ (∀ k : Fin 16, t.kedge[k] = false) ∧ t.run = .running ∧
        t.disp = s.disp ∧ t.key = s.key ∧ t.cfg = s.cfg)

/-! ## Power-on -/

/-- The power-on values of 10_state.md R50 under every configuration: FONT then zeros in memory, everything 0 or off, PC = 0x200, Paused
(70_reset_and_hazards.md R280; decision D19). `State.reset` is that state at the reference STACK_DEPTH 16 (the model's choice, log
entry 1). -/
def Obligations.PowerOnHoldsTheResetValues : Prop :=
  (∀ c : Config,
    (∀ k : Fin 80, (State.powerOn c).readByte k.val = c.font[k]) ∧ (∀ a, 80 ≤ a → (State.powerOn c).readByte a = 0) ∧
    (∀ k, (State.powerOn c).reg k = 0) ∧ (State.powerOn c).I = 0 ∧ (State.powerOn c).PC = 0x200 ∧
    (State.powerOn c).SP = 0 ∧ (∀ k : Fin 16, (State.powerOn c).stack[k] = 0) ∧
    (∀ y x, Display.pixel (State.powerOn c).disp y x = false) ∧ (State.powerOn c).DT = 0 ∧ (State.powerOn c).ST = 0 ∧
    (∀ k : Fin 16, (State.powerOn c).key[k] = false) ∧ (State.powerOn c).await = none ∧
    (∀ k : Fin 16, (State.powerOn c).kedge[k] = false) ∧ (State.powerOn c).run = .paused) ∧
  ∃ c : Config, State.reset = State.powerOn c ∧ c.stackDepth = 16

/-- A machine resumed without a load runs zeroed memory as no-ops from 0x200, PC advancing by 2 a step until it is 0x1000, where
every further fetch fails, returns AddressError(0x1000) to the host and changes nothing (70_reset_and_hazards.md R281; decisions D4,
D7, D19, D25). -/
def Obligations.UnloadedMachineRunsNoOpsToTheEnd : Prop :=
  ∀ c : Config,
    (∀ k, k ≤ 1792 → runCommands (.requestResume :: List.replicate k .step) (State.powerOn c) =
      .next ({ State.powerOn c with run := .running, PC := BitVec.ofNat 16 (0x200 + 2 * k) },
        .unit :: List.replicate k (.step .none))) ∧
    (∀ k, runCommands (.requestResume :: List.replicate (1792 + k) .step) (State.powerOn c) =
      .next ({ State.powerOn c with run := .running, PC := 0x1000 },
        .unit :: (List.replicate 1792 (.step .none) ++ List.replicate k (.step (.addressError 0x1000)))))
end

