-- ==== Sys2Proof/Laws/Decode.lean ====
section
/-! SUPPORT. The fields of each encoding format (spec 30_encoding.md R91, R93) and the byte order of a word, as arithmetic on the
word's value. -/

namespace Sys2Proof

/-! ## Fields as arithmetic -/

section Fields

variable (op : Word)

theorem fieldFamily_toNat : (fieldFamily op).toNat = op.toNat / 4096 := by
  have := op.isLt
  simp only [fieldFamily, BitVec.extractLsb'_toNat, Nat.shiftRight_eq_div_pow]
  omega

theorem fieldX_toNat : (fieldX op).toNat = op.toNat / 256 % 16 := by
  simp only [fieldX, BitVec.extractLsb'_toNat, Nat.shiftRight_eq_div_pow]

theorem fieldY_toNat : (fieldY op).toNat = op.toNat / 16 % 16 := by
  simp only [fieldY, BitVec.extractLsb'_toNat, Nat.shiftRight_eq_div_pow]

theorem fieldN_toNat : (fieldN op).toNat = op.toNat % 16 := by
  simp only [fieldN, BitVec.extractLsb'_toNat, Nat.shiftRight_zero]

theorem fieldNN_toNat : (fieldNN op).toNat = op.toNat % 256 := by
  simp only [fieldNN, BitVec.extractLsb'_toNat, Nat.shiftRight_zero]

theorem fieldNNN_toNat : (fieldNNN op).toNat = op.toNat % 4096 := by
  simp only [fieldNNN, BitVec.extractLsb'_toNat, Nat.shiftRight_zero]

theorem firstByte_toNat : (firstByte op).toNat = op.toNat / 256 := by
  have := op.isLt
  simp only [firstByte, BitVec.extractLsb'_toNat, Nat.shiftRight_eq_div_pow]
  omega

theorem secondByte_toNat : (secondByte op).toNat = op.toNat % 256 := by
  simp only [secondByte, BitVec.extractLsb'_toNat, Nat.shiftRight_zero]

end Fields

/-! ## Formats as arithmetic -/

section Formats

variable (f : Nibble) (x y : RegSel) (n : Nibble) (nn : Byte) (nnn : Addr12)

/-- The value of two joined fields. -/
theorem toNat_join {v w : Nat} (a : BitVec v) (b : BitVec w) : (a ++ b).toNat = a.toNat * 2 ^ w + b.toNat := by
  rw [BitVec.toNat_append, ← Nat.shiftLeft_add_eq_or_of_lt b.isLt, Nat.shiftLeft_eq]

theorem wordOfBytes_toNat (a b : Byte) : (wordOfBytes a b).toNat = a.toNat * 256 + b.toNat := toNat_join a b

theorem formatFA_toNat : (formatFA f nnn).toNat = f.toNat * 4096 + nnn.toNat := toNat_join f nnn

theorem formatFXNN_toNat : (formatFXNN f x nn).toNat = (f.toNat * 16 + x.toNat) * 256 + nn.toNat := by
  have h := toNat_join (f ++ x) nn
  rwa [toNat_join f x] at h

theorem formatFXYN_toNat :
    (formatFXYN f x y n).toNat = ((f.toNat * 16 + x.toNat) * 16 + y.toNat) * 16 + n.toNat := by
  have h := toNat_join (f ++ x ++ y) n
  rwa [toNat_join (f ++ x) y, toNat_join f x] at h

@[simp] theorem fieldFamily_formatFA : fieldFamily (formatFA f nnn) = f := by
  apply BitVec.eq_of_toNat_eq
  rw [fieldFamily_toNat, formatFA_toNat]
  omega

@[simp] theorem fieldNNN_formatFA : fieldNNN (formatFA f nnn) = nnn := by
  apply BitVec.eq_of_toNat_eq
  rw [fieldNNN_toNat, formatFA_toNat]
  omega

@[simp] theorem fieldFamily_formatFXNN : fieldFamily (formatFXNN f x nn) = f := by
  apply BitVec.eq_of_toNat_eq
  rw [fieldFamily_toNat, formatFXNN_toNat]
  omega

@[simp] theorem fieldX_formatFXNN : fieldX (formatFXNN f x nn) = x := by
  apply BitVec.eq_of_toNat_eq
  rw [fieldX_toNat, formatFXNN_toNat]
  omega

@[simp] theorem fieldNN_formatFXNN : fieldNN (formatFXNN f x nn) = nn := by
  apply BitVec.eq_of_toNat_eq
  rw [fieldNN_toNat, formatFXNN_toNat]
  omega

@[simp] theorem fieldFamily_formatFXYN : fieldFamily (formatFXYN f x y n) = f := by
  apply BitVec.eq_of_toNat_eq
  rw [fieldFamily_toNat, formatFXYN_toNat]
  omega

@[simp] theorem fieldX_formatFXYN : fieldX (formatFXYN f x y n) = x := by
  apply BitVec.eq_of_toNat_eq
  rw [fieldX_toNat, formatFXYN_toNat]
  omega

@[simp] theorem fieldY_formatFXYN : fieldY (formatFXYN f x y n) = y := by
  apply BitVec.eq_of_toNat_eq
  rw [fieldY_toNat, formatFXYN_toNat]
  omega

@[simp] theorem fieldN_formatFXYN : fieldN (formatFXYN f x y n) = n := by
  apply BitVec.eq_of_toNat_eq
  rw [fieldN_toNat, formatFXYN_toNat]
  omega

end Formats

/-! ## A word is its fields -/

theorem formatFA_fields (op : Word) : formatFA (fieldFamily op) (fieldNNN op) = op := by
  apply BitVec.eq_of_toNat_eq
  rw [formatFA_toNat, fieldFamily_toNat, fieldNNN_toNat]
  omega

theorem formatFXNN_fields (op : Word) : formatFXNN (fieldFamily op) (fieldX op) (fieldNN op) = op := by
  apply BitVec.eq_of_toNat_eq
  rw [formatFXNN_toNat, fieldFamily_toNat, fieldX_toNat, fieldNN_toNat]
  omega

theorem formatFXYN_fields (op : Word) : formatFXYN (fieldFamily op) (fieldX op) (fieldY op) (fieldN op) = op := by
  apply BitVec.eq_of_toNat_eq
  rw [formatFXYN_toNat, fieldFamily_toNat, fieldX_toNat, fieldY_toNat, fieldN_toNat]
  omega

/-- A word is its two bytes, big-endian (20_memory.md R75). -/
@[simp] theorem wordOfBytes_bytes (op : Word) : wordOfBytes (firstByte op) (secondByte op) = op := by
  apply BitVec.eq_of_toNat_eq
  rw [wordOfBytes_toNat, firstByte_toNat, secondByte_toNat]
  omega

/-! ## The masks of the opcode table (R95) -/

theorem formatFA_getLsbD (f : Nibble) (nnn : Addr12) (i : Nat) :
    (formatFA f nnn).getLsbD i = if i < 12 then nnn.getLsbD i else f.getLsbD (i - 12) := BitVec.getLsbD_append

/-- Mask 0xF000 keeps the family. -/
theorem mask_F000 (op : Word) : op &&& 0xF000 = formatFA (fieldFamily op) 0 := by
  apply BitVec.eq_of_getLsbD_eq
  intro i hi
  rw [formatFA_getLsbD]
  simp only [fieldFamily, BitVec.getLsbD_and, BitVec.getLsbD_extractLsb']
  interval_cases i <;> simp

/-- Mask 0xF00F keeps the family and N. -/
theorem mask_F00F (op : Word) : op &&& 0xF00F = formatFA (fieldFamily op) ((fieldN op).setWidth 12) := by
  apply BitVec.eq_of_getLsbD_eq
  intro i hi
  rw [formatFA_getLsbD]
  simp only [fieldFamily, fieldN, BitVec.getLsbD_and, BitVec.getLsbD_setWidth, BitVec.getLsbD_extractLsb']
  interval_cases i <;> simp

/-- Mask 0xF0FF keeps the family and NN. -/
theorem mask_F0FF (op : Word) : op &&& 0xF0FF = formatFA (fieldFamily op) ((fieldNN op).setWidth 12) := by
  apply BitVec.eq_of_getLsbD_eq
  intro i hi
  rw [formatFA_getLsbD]
  simp only [fieldFamily, fieldNN, BitVec.getLsbD_and, BitVec.getLsbD_setWidth, BitVec.getLsbD_extractLsb']
  interval_cases i <;> simp

/-- Two FA words are equal exactly when their fields are. -/
theorem formatFA_inj {f g : Nibble} {a b : Addr12} : formatFA f a = formatFA g b ↔ f = g ∧ a = b := by
  constructor
  · intro h
    exact ⟨by simpa using congrArg fieldFamily h, by simpa using congrArg fieldNNN h⟩
  · rintro ⟨rfl, rfl⟩
    rfl

/-- A word under mask 0xF000 matches `m` exactly when its family is that of `m`. -/
theorem match_F000 (op : Word) (f : Nibble) : op &&& 0xF000 = formatFA f 0 ↔ fieldFamily op = f := by
  rw [mask_F000, formatFA_inj]
  simp

/-- A word under mask 0xF00F matches exactly when its family and N are the pattern's. -/
theorem match_F00F (op : Word) (f n : Nibble) :
    op &&& 0xF00F = formatFXYN f 0 0 n ↔ fieldFamily op = f ∧ fieldN op = n := by
  have e : formatFXYN f 0 0 n = formatFA f (n.setWidth 12) := by
    apply BitVec.eq_of_toNat_eq
    have := n.isLt
    have z : (0 : RegSel).toNat = 0 := rfl
    simp only [formatFXYN_toNat, formatFA_toNat, BitVec.toNat_setWidth, z]
    omega
  rw [mask_F00F, e, formatFA_inj]
  constructor
  · rintro ⟨h, g⟩
    refine ⟨h, BitVec.eq_of_toNat_eq ?_⟩
    have := congrArg BitVec.toNat g
    simp only [BitVec.toNat_setWidth] at this
    omega
  · rintro ⟨h, g⟩
    rw [h, g]
    exact ⟨rfl, rfl⟩

/-- A word under mask 0xF0FF matches exactly when its family and NN are the pattern's. -/
theorem match_F0FF (op : Word) (f : Nibble) (nn : Byte) :
    op &&& 0xF0FF = formatFXNN f 0 nn ↔ fieldFamily op = f ∧ fieldNN op = nn := by
  have e : formatFXNN f 0 nn = formatFA f (nn.setWidth 12) := by
    apply BitVec.eq_of_toNat_eq
    have := nn.isLt
    have z : (0 : RegSel).toNat = 0 := rfl
    simp only [formatFXNN_toNat, formatFA_toNat, BitVec.toNat_setWidth, z]
    omega
  rw [mask_F0FF, e, formatFA_inj]
  constructor
  · rintro ⟨h, g⟩
    refine ⟨h, BitVec.eq_of_toNat_eq ?_⟩
    have := congrArg BitVec.toNat g
    simp only [BitVec.toNat_setWidth] at this
    omega
  · rintro ⟨h, g⟩
    rw [h, g]
    exact ⟨rfl, rfl⟩

/-- The three masks, from the fields to the match. -/
theorem matches_F000 {op m : Word} {f : Nibble} (hm : formatFA f 0 = m) (hf : fieldFamily op = f) :
    op &&& 0xF000 = m := hm ▸ (match_F000 op f).2 hf

theorem matches_F00F {op m : Word} {f n : Nibble} (hm : formatFXYN f 0 0 n = m) (hf : fieldFamily op = f)
    (hn : fieldN op = n) : op &&& 0xF00F = m := hm ▸ (match_F00F op f n).2 ⟨hf, hn⟩

theorem matches_F0FF {op m : Word} {f : Nibble} {nn : Byte} (hm : formatFXNN f 0 nn = m) (hf : fieldFamily op = f)
    (hn : fieldNN op = nn) : op &&& 0xF0FF = m := hm ▸ (match_F0FF op f nn).2 ⟨hf, hn⟩

/-- Decoding the two bytes of a word is decoding the word. -/
theorem decode_bytes_of_word {op : Word} {i : Instr} (h : decodeWord op = .ok i) (rest : List Byte) :
    decode (firstByte op :: secondByte op :: rest) = .ok (i, rest) := by
  simp [decode, h]

end Sys2Proof
end

