-- ==== Sys2Proof/Laws/Display.lean ====
section
/-! SUPPORT. Pixels after toggles, and what the loops of the sprite blitter do to one pixel and to the collision flag
(spec 44_display.md R201, R202). -/

namespace Sys2Proof.Machine

/-- Two displays with equal pixels are equal. -/
theorem Display.ext_pixel {d e : Display} (h : ∀ y x, y < 32 → x < 64 → Display.pixel d y x = Display.pixel e y x) :
    d = e := by
  apply Vector.ext
  intro y hy
  apply Vector.ext
  intro x hx
  have := h y x hy hx
  simpa [Display.pixel, hy, hx] using this

/-- A toggle inside the screen flips its pixel and no other. -/
theorem Display.pixel_toggle (d : Display) {y x : Nat} (hy : y < 32) (hx : x < 64) (y' x' : Nat) :
    Display.pixel (Display.toggle d y x) y' x' =
      if y' = y ∧ x' = x then !Display.pixel d y x else Display.pixel d y' x' := by
  by_cases hin : y' < 32 ∧ x' < 64
  · by_cases hyy : y = y'
    · subst hyy
      by_cases hxx : x = x'
      · subst hxx
        simp [Display.pixel, Display.toggle, hy, hx]
      · have : x' ≠ x := fun e => hxx e.symm
        simp [Display.pixel, Display.toggle, hy, hx, hin, hxx, this]
    · have : y' ≠ y := fun e => hyy e.symm
      simp [Display.pixel, Display.toggle, hy, hx, hin, hyy, this]
  · have : ¬(y' = y ∧ x' = x) := fun e => hin ⟨e.1 ▸ hy, e.2 ▸ hx⟩
    simp [Display.pixel, hin, this]

@[simp] theorem Display.pixel_clear (y x : Nat) : Display.pixel Display.clear y x = false := by
  unfold Display.pixel Display.clear
  split <;> simp

/-- Whether bit `b` of a row draws at column `x`: the bit is set and its column is `x`, on the screen (R201). -/
def bitCovers (x0 : Nat) (byte : Byte) (x b : Nat) : Bool :=
  byte.getLsbD (7 - b) && decide (x0 + b = x) && decide (x < 64)

/-- The effect of one sprite bit on one pixel. -/
theorem drawBit_pixel (x0 : Nat) {y : Nat} (byte : Byte) (acc : Display × Bool) (b : Nat) (hy : y < 32) (y' x' : Nat) :
    Display.pixel (drawBit x0 y byte acc b).1 y' x' =
      (Display.pixel acc.1 y' x' ^^ (decide (y' = y) && bitCovers x0 byte x' b)) := by
  unfold drawBit bitCovers
  split
  · rename_i hc
    have : ¬(x0 + b = x' ∧ x' < 64) := by
      simp only [screenW] at hc
      omega
    by_cases h1 : x0 + b = x'
    · have h2 : ¬x' < 64 := fun h => this ⟨h1, h⟩
      simp [h2]
    · simp [h1]
  · rename_i hc
    simp only [screenW, Nat.not_le] at hc
    split
    · rename_i hb
      simp only
      rw [Display.pixel_toggle acc.1 hy hc]
      by_cases h1 : y' = y
      · by_cases h2 : x' = x0 + b
        · subst h1 h2
          simp [hb, hc]
        · have : ¬x0 + b = x' := fun e => h2 e.symm
          simp [h2, this]
      · simp [h1]
    · rename_i hb
      simp [hb]

/-- The effect of one sprite bit on the collision flag. -/
theorem drawBit_collision (x0 y : Nat) (byte : Byte) (acc : Display × Bool) (b : Nat) :
    (drawBit x0 y byte acc b).2 =
      (acc.2 || (byte.getLsbD (7 - b) && decide (x0 + b < 64) && Display.pixel acc.1 y (x0 + b))) := by
  unfold drawBit
  split
  · rename_i hc
    have : ¬x0 + b < 64 := by
      simp only [screenW] at hc
      omega
    simp [this]
  · rename_i hc
    simp only [screenW, Nat.not_le] at hc
    split
    · rename_i hb
      simp [hb, hc]
    · rename_i hb
      simp [hb]

/-! ## Rows and sprites -/

/-- Whether the first `n` bits of a row byte draw at column `x` (R201). -/
def rowCovers (x0 : Nat) (byte : Byte) (n x : Nat) : Bool :=
  decide (x0 ≤ x) && decide (x - x0 < n) && decide (x < 64) && byte.getLsbD (7 - (x - x0))

/-- The effect of the first `n` bits of a row on one pixel. -/
theorem drawBits_pixel (x0 : Nat) {y : Nat} (byte : Byte) (hy : y < 32) (acc : Display × Bool) (n y' x' : Nat) :
    Display.pixel ((List.range n).foldl (drawBit x0 y byte) acc).1 y' x' =
      (Display.pixel acc.1 y' x' ^^ (decide (y' = y) && rowCovers x0 byte n x')) := by
  induction n with
  | zero => simp [rowCovers]
  | succ n ih =>
    rw [List.range_succ, List.foldl_append]
    simp only [List.foldl_cons, List.foldl_nil]
    rw [drawBit_pixel _ _ _ _ hy, ih]
    by_cases h1 : y' = y
    · by_cases h2 : x0 + n = x'
      · subst h2
        simp [bitCovers, rowCovers, h1]
        cases byte.getLsbD (7 - n) <;> simp
      · have : (decide (x0 ≤ x') && decide (x' - x0 < n + 1)) = (decide (x0 ≤ x') && decide (x' - x0 < n)) := by
          rw [← Bool.decide_and, ← Bool.decide_and, decide_eq_decide]
          omega
        simp only [bitCovers, rowCovers, h2, this]
        simp
    · simp [h1]

/-- The collision flag after the first `n` bits of a row. -/
theorem drawBits_collision (x0 : Nat) {y : Nat} (byte : Byte) (hy : y < 32) (acc : Display × Bool) (n : Nat) (hn : n ≤ 8) :
    ((List.range n).foldl (drawBit x0 y byte) acc).2 = true ↔
      acc.2 = true ∨ ∃ x, rowCovers x0 byte n x = true ∧ Display.pixel acc.1 y x = true := by
  induction n with
  | zero => simp [rowCovers]
  | succ n ih =>
    rw [List.range_succ, List.foldl_append]
    simp only [List.foldl_cons, List.foldl_nil]
    rw [drawBit_collision, drawBits_pixel _ _ hy]
    have ih := ih (by omega)
    simp only [Bool.or_eq_true, ih, Bool.and_eq_true, decide_eq_true_eq, rowCovers]
    have : decide (x0 + n - x0 < n) = false := by simp
    simp only [this, Bool.and_false, Bool.false_and, Bool.xor_false]
    constructor
    · rintro ((h | ⟨x', ⟨⟨⟨a, b⟩, c⟩, d⟩, e⟩) | ⟨⟨a, b⟩, c⟩)
      · exact .inl h
      · exact .inr ⟨x', ⟨⟨⟨a, by omega⟩, c⟩, d⟩, e⟩
      · exact .inr ⟨x0 + n, ⟨⟨⟨by omega, by omega⟩, b⟩, by simpa using a⟩, c⟩
    · rintro (h | ⟨x', ⟨⟨⟨a, b⟩, c⟩, d⟩, e⟩)
      · exact .inl (.inl h)
      · by_cases hx : x' = x0 + n
        · subst hx
          exact .inr ⟨⟨by simpa using d, c⟩, e⟩
        · exact .inl (.inr ⟨x', ⟨⟨⟨a, by omega⟩, c⟩, d⟩, e⟩)

/-- Whether a sprite of `rows` rows draws at row `y` and column `x` (R201, R202). -/
def spriteCovers (byteAt : Nat → Byte) (x0 y0 rows y x : Nat) : Bool :=
  decide (y0 ≤ y) && decide (y - y0 < rows) && rowCovers x0 (byteAt (y - y0)) 8 x

/-- The effect of a whole sprite on one pixel: an XOR with what the sprite covers. -/
theorem drawRows_pixel (byteAt : Nat → Byte) (x0 y0 rows : Nat) (h : y0 + rows ≤ 32) (d : Display) (y x : Nat) :
    Display.pixel (drawRows byteAt x0 y0 rows d).1 y x = (Display.pixel d y x ^^ spriteCovers byteAt x0 y0 rows y x) := by
  unfold drawRows
  induction rows with
  | zero => simp [spriteCovers]
  | succ n ih =>
    rw [List.range_succ, List.foldl_append]
    simp only [List.foldl_cons, List.foldl_nil]
    rw [drawRow, drawBits_pixel _ _ (by omega), ih (by omega)]
    unfold spriteCovers
    by_cases h2 : y = y0 + n
    · subst h2
      simp
    · have : (decide (y0 ≤ y) && decide (y - y0 < n + 1)) = (decide (y0 ≤ y) && decide (y - y0 < n)) := by
        rw [← Bool.decide_and, ← Bool.decide_and, decide_eq_decide]
        omega
      simp only [h2, this]
      simp

/-- A sprite collides exactly when it covers a pixel that was on before the draw. -/
theorem drawRows_collision (byteAt : Nat → Byte) (x0 y0 rows : Nat) (h : y0 + rows ≤ 32) (d : Display) :
    (drawRows byteAt x0 y0 rows d).2 = true ↔
      ∃ y x, spriteCovers byteAt x0 y0 rows y x = true ∧ Display.pixel d y x = true := by
  induction rows with
  | zero => simp [spriteCovers, drawRows]
  | succ n ih =>
    have e : drawRows byteAt x0 y0 (n + 1) d = drawRow x0 (y0 + n) (byteAt n) (drawRows byteAt x0 y0 n d) := by
      simp [drawRows, List.range_succ]
    rw [e, drawRow, drawBits_collision _ _ (by omega) _ 8 (by omega), ih (by omega)]
    have hc : ∀ x, spriteCovers byteAt x0 y0 n (y0 + n) x = false := fun x => by simp [spriteCovers]
    simp only [drawRows_pixel _ _ _ _ (show y0 + n ≤ 32 by omega), hc, Bool.xor_false]
    constructor
    · rintro (⟨y, x, c, p⟩ | ⟨x, c, p⟩)
      · refine ⟨y, x, ?_, p⟩
        simp only [spriteCovers, Bool.and_eq_true, decide_eq_true_eq] at c ⊢
        exact ⟨⟨c.1.1, by omega⟩, c.2⟩
      · exact ⟨y0 + n, x, by simp [spriteCovers, c], p⟩
    · rintro ⟨y, x, c, p⟩
      simp only [spriteCovers, Bool.and_eq_true, decide_eq_true_eq] at c
      by_cases hy : y = y0 + n
      · subst hy
        exact .inr ⟨x, by simpa using c.2, p⟩
      · refine .inl ⟨y, x, ?_, p⟩
        simp only [spriteCovers, Bool.and_eq_true, decide_eq_true_eq]
        exact ⟨⟨c.1.1, by omega⟩, c.2⟩

end Sys2Proof.Machine
end

