-- ==== Sys2Proof/Laws/Memory.lean ====
section
/-! SUPPORT. Memory: reads after writes, and that every memory operation keeps the canonical form. -/

namespace Sys2Proof.Machine

variable {c : Config} {m : Memory}

@[simp] theorem Memory.read_nil (a : Nat) : Memory.read c [] a = Memory.unlisted c a := rfl

@[simp] theorem Memory.wf_nil : Memory.wf c [] = true := rfl

/-- Weakening the lower bound of the canonical form. -/
theorem Memory.wfFrom_mono {lo lo' : Nat} (h : lo' ≤ lo) (hm : Memory.wfFrom c lo m = true) :
    Memory.wfFrom c lo' m = true := by
  cases m with
  | nil => rfl
  | cons p rest =>
    obtain ⟨a, v⟩ := p
    simp only [Memory.wfFrom, Bool.and_eq_true, decide_eq_true_eq] at hm ⊢
    exact ⟨⟨⟨by omega, hm.1.1.2⟩, hm.1.2⟩, hm.2⟩

/-- Below its first address a canonical memory reads as power-on. -/
theorem Memory.read_below {lo a : Nat} (hm : Memory.wfFrom c lo m = true) (ha : a < lo) :
    Memory.read c m a = Memory.unlisted c a := by
  induction m generalizing lo with
  | nil => rfl
  | cons p rest ih =>
    obtain ⟨b, v⟩ := p
    simp only [Memory.wfFrom, Bool.and_eq_true, decide_eq_true_eq] at hm
    have hne : a ≠ b := by omega
    simp only [Memory.read, if_neg hne]
    exact ih hm.2 (by omega)

/-- A write changes only the addressed byte (20_memory.md R78). -/
theorem Memory.read_write_of_ne {a b : Nat} (v : Byte) (h : b ≠ a) :
    Memory.read c (Memory.write c m a v) b = Memory.read c m b := by
  induction m with
  | nil =>
    simp only [Memory.write]
    split <;> simp [Memory.read, h]
  | cons p rest ih =>
    obtain ⟨d, w⟩ := p
    simp only [Memory.write]
    split
    · split <;> simp [Memory.read, h]
    · split
      · rename_i had
        subst had
        split <;> simp [Memory.read, h]
      · simp only [Memory.read, ih]

/-- A read after a write to the same address gives the value written (20_memory.md R78). -/
theorem Memory.read_write_self_from {lo a : Nat} (v : Byte) (hm : Memory.wfFrom c lo m = true) :
    Memory.read c (Memory.write c m a v) a = v := by
  induction m generalizing lo with
  | nil =>
    simp only [Memory.write]
    split <;> simp_all [Memory.read]
  | cons p rest ih =>
    obtain ⟨d, w⟩ := p
    simp only [Memory.wfFrom, Bool.and_eq_true, decide_eq_true_eq] at hm
    simp only [Memory.write]
    split
    · rename_i had
      split
      · rename_i hv
        have hne : a ≠ d := by omega
        simp only [Memory.read, if_neg hne, hv]
        exact Memory.read_below hm.2 (by omega)
      · simp [Memory.read]
    · split
      · rename_i had
        subst had
        split
        · rename_i hv
          rw [hv]
          exact Memory.read_below hm.2 (by omega)
        · simp [Memory.read]
      · rename_i hne
        simp only [Memory.read, if_neg hne]
        exact ih hm.2

theorem Memory.read_write_self {a : Nat} (v : Byte) (hm : Memory.wf c m = true) :
    Memory.read c (Memory.write c m a v) a = v := Memory.read_write_self_from v hm

/-- A write below `MEM_SIZE` keeps the canonical form. -/
theorem Memory.wfFrom_write {lo a : Nat} (v : Byte) (hm : Memory.wfFrom c lo m = true) (hlo : lo ≤ a) (ha : a < memSize) :
    Memory.wfFrom c lo (Memory.write c m a v) = true := by
  induction m generalizing lo with
  | nil =>
    simp only [Memory.write]
    split <;> simp_all [Memory.wfFrom]
  | cons p rest ih =>
    obtain ⟨d, w⟩ := p
    have hm' := hm
    simp only [Memory.wfFrom, Bool.and_eq_true, decide_eq_true_eq] at hm
    simp only [Memory.write]
    split
    · rename_i had
      split
      · exact hm'
      · rename_i hv
        simp only [Memory.wfFrom, Bool.and_eq_true, decide_eq_true_eq, bne_iff_ne]
        exact ⟨⟨⟨hlo, ha⟩, hv⟩, ⟨⟨by omega, hm.1.1.2⟩, by simpa using hm.1.2⟩, hm.2⟩
    · split
      · rename_i had
        subst had
        split
        · exact Memory.wfFrom_mono (by omega) hm.2
        · rename_i hv
          simp only [Memory.wfFrom, Bool.and_eq_true, decide_eq_true_eq, bne_iff_ne]
          exact ⟨⟨⟨hlo, ha⟩, hv⟩, hm.2⟩
      · simp only [Memory.wfFrom, Bool.and_eq_true, decide_eq_true_eq]
        exact ⟨hm.1, ih hm.2 (by omega)⟩

theorem Memory.wf_write {a : Nat} (v : Byte) (hm : Memory.wf c m = true) (ha : a < memSize) :
    Memory.wf c (Memory.write c m a v) = true := Memory.wfFrom_write v hm (Nat.zero_le a) ha

/-- Consecutive writes that end in memory keep the canonical form. -/
theorem Memory.wf_writeBytes {a : Nat} (vs : List Byte) (hm : Memory.wf c m = true) (ha : a + vs.length ≤ memSize) :
    Memory.wf c (Memory.writeBytes c m a vs) = true := by
  induction vs generalizing m a with
  | nil => exact hm
  | cons v vs ih =>
    simp only [List.length_cons] at ha
    exact ih (Memory.wf_write v hm (by omega)) (by omega)

/-- Consecutive writes leave every byte outside them alone. -/
theorem Memory.read_writeBytes_outside {a b : Nat} (vs : List Byte) (h : b < a ∨ a + vs.length ≤ b) :
    Memory.read c (Memory.writeBytes c m a vs) b = Memory.read c m b := by
  induction vs generalizing m a with
  | nil => rfl
  | cons v vs ih =>
    simp only [List.length_cons] at h
    simp only [Memory.writeBytes]
    rw [ih (by omega), Memory.read_write_of_ne v (by omega)]

/-- Consecutive writes store their bytes in order. -/
theorem Memory.read_writeBytes_inside {a k : Nat} (vs : List Byte) (hm : Memory.wf c m = true)
    (ha : a + vs.length ≤ memSize) (hk : k < vs.length) :
    Memory.read c (Memory.writeBytes c m a vs) (a + k) = vs[k] := by
  induction vs generalizing m a k with
  | nil => simp at hk
  | cons v vs ih =>
    simp only [List.length_cons] at ha hk
    simp only [Memory.writeBytes]
    cases k with
    | zero =>
      rw [Memory.read_writeBytes_outside vs (by omega)]
      exact Memory.read_write_self v hm
    | succ k =>
      have := ih (m := Memory.write c m a v) (a := a + 1) (k := k) (Memory.wf_write v hm (by omega)) (by omega) (by omega)
      rw [show a + (k + 1) = a + 1 + k by omega, this]
      simp

end Sys2Proof.Machine
end

