-- ==== Sys2Proof/Laws/State.lean ====
section
/-! SUPPORT. What each update of State does to each field: one lemma per field per update, so that no later proof unfolds a
record update. -/

namespace Sys2Proof.Machine

variable (s : State)

/-! ## `V[x] <- v` -/

@[simp] theorem State.setReg_mem (x : RegSel) (v : Byte) : (s.setReg x v).mem = s.mem := rfl
@[simp] theorem State.setReg_V (x : RegSel) (v : Byte) : (s.setReg x v).V = s.V.set x.toNat v x.isLt := rfl
@[simp] theorem State.setReg_I (x : RegSel) (v : Byte) : (s.setReg x v).I = s.I := rfl
@[simp] theorem State.setReg_PC (x : RegSel) (v : Byte) : (s.setReg x v).PC = s.PC := rfl
@[simp] theorem State.setReg_stack (x : RegSel) (v : Byte) : (s.setReg x v).stack = s.stack := rfl
@[simp] theorem State.setReg_SP (x : RegSel) (v : Byte) : (s.setReg x v).SP = s.SP := rfl
@[simp] theorem State.setReg_disp (x : RegSel) (v : Byte) : (s.setReg x v).disp = s.disp := rfl
@[simp] theorem State.setReg_DT (x : RegSel) (v : Byte) : (s.setReg x v).DT = s.DT := rfl
@[simp] theorem State.setReg_ST (x : RegSel) (v : Byte) : (s.setReg x v).ST = s.ST := rfl
@[simp] theorem State.setReg_key (x : RegSel) (v : Byte) : (s.setReg x v).key = s.key := rfl
@[simp] theorem State.setReg_await (x : RegSel) (v : Byte) : (s.setReg x v).await = s.await := rfl
@[simp] theorem State.setReg_kedge (x : RegSel) (v : Byte) : (s.setReg x v).kedge = s.kedge := rfl
@[simp] theorem State.setReg_run (x : RegSel) (v : Byte) : (s.setReg x v).run = s.run := rfl
@[simp] theorem State.setReg_cfg (x : RegSel) (v : Byte) : (s.setReg x v).cfg = s.cfg := rfl
@[simp] theorem State.setReg_draws (x : RegSel) (v : Byte) : (s.setReg x v).draws = s.draws := rfl
@[simp] theorem State.setReg_diag (x : RegSel) (v : Byte) : (s.setReg x v).diag = s.diag := rfl

/-! ## `I <- v` -/

@[simp] theorem State.setI_mem (v : Word) : (s.setI v).mem = s.mem := rfl
@[simp] theorem State.setI_V (v : Word) : (s.setI v).V = s.V := rfl
@[simp] theorem State.setI_I (v : Word) : (s.setI v).I = v := rfl
@[simp] theorem State.setI_PC (v : Word) : (s.setI v).PC = s.PC := rfl
@[simp] theorem State.setI_stack (v : Word) : (s.setI v).stack = s.stack := rfl
@[simp] theorem State.setI_SP (v : Word) : (s.setI v).SP = s.SP := rfl
@[simp] theorem State.setI_disp (v : Word) : (s.setI v).disp = s.disp := rfl
@[simp] theorem State.setI_DT (v : Word) : (s.setI v).DT = s.DT := rfl
@[simp] theorem State.setI_ST (v : Word) : (s.setI v).ST = s.ST := rfl
@[simp] theorem State.setI_key (v : Word) : (s.setI v).key = s.key := rfl
@[simp] theorem State.setI_await (v : Word) : (s.setI v).await = s.await := rfl
@[simp] theorem State.setI_kedge (v : Word) : (s.setI v).kedge = s.kedge := rfl
@[simp] theorem State.setI_run (v : Word) : (s.setI v).run = s.run := rfl
@[simp] theorem State.setI_cfg (v : Word) : (s.setI v).cfg = s.cfg := rfl
@[simp] theorem State.setI_draws (v : Word) : (s.setI v).draws = s.draws := rfl
@[simp] theorem State.setI_diag (v : Word) : (s.setI v).diag = s.diag := rfl

/-! ## `PC <- v` -/

@[simp] theorem State.setPC_mem (v : Word) : (s.setPC v).mem = s.mem := rfl
@[simp] theorem State.setPC_V (v : Word) : (s.setPC v).V = s.V := rfl
@[simp] theorem State.setPC_I (v : Word) : (s.setPC v).I = s.I := rfl
@[simp] theorem State.setPC_PC (v : Word) : (s.setPC v).PC = v := rfl
@[simp] theorem State.setPC_stack (v : Word) : (s.setPC v).stack = s.stack := rfl
@[simp] theorem State.setPC_SP (v : Word) : (s.setPC v).SP = s.SP := rfl
@[simp] theorem State.setPC_disp (v : Word) : (s.setPC v).disp = s.disp := rfl
@[simp] theorem State.setPC_DT (v : Word) : (s.setPC v).DT = s.DT := rfl
@[simp] theorem State.setPC_ST (v : Word) : (s.setPC v).ST = s.ST := rfl
@[simp] theorem State.setPC_key (v : Word) : (s.setPC v).key = s.key := rfl
@[simp] theorem State.setPC_await (v : Word) : (s.setPC v).await = s.await := rfl
@[simp] theorem State.setPC_kedge (v : Word) : (s.setPC v).kedge = s.kedge := rfl
@[simp] theorem State.setPC_run (v : Word) : (s.setPC v).run = s.run := rfl
@[simp] theorem State.setPC_cfg (v : Word) : (s.setPC v).cfg = s.cfg := rfl
@[simp] theorem State.setPC_draws (v : Word) : (s.setPC v).draws = s.draws := rfl
@[simp] theorem State.setPC_diag (v : Word) : (s.setPC v).diag = s.diag := rfl

/-! ## `DT <- v` -/

@[simp] theorem State.setDT_mem (v : Byte) : (s.setDT v).mem = s.mem := rfl
@[simp] theorem State.setDT_V (v : Byte) : (s.setDT v).V = s.V := rfl
@[simp] theorem State.setDT_I (v : Byte) : (s.setDT v).I = s.I := rfl
@[simp] theorem State.setDT_PC (v : Byte) : (s.setDT v).PC = s.PC := rfl
@[simp] theorem State.setDT_stack (v : Byte) : (s.setDT v).stack = s.stack := rfl
@[simp] theorem State.setDT_SP (v : Byte) : (s.setDT v).SP = s.SP := rfl
@[simp] theorem State.setDT_disp (v : Byte) : (s.setDT v).disp = s.disp := rfl
@[simp] theorem State.setDT_DT (v : Byte) : (s.setDT v).DT = v := rfl
@[simp] theorem State.setDT_ST (v : Byte) : (s.setDT v).ST = s.ST := rfl
@[simp] theorem State.setDT_key (v : Byte) : (s.setDT v).key = s.key := rfl
@[simp] theorem State.setDT_await (v : Byte) : (s.setDT v).await = s.await := rfl
@[simp] theorem State.setDT_kedge (v : Byte) : (s.setDT v).kedge = s.kedge := rfl
@[simp] theorem State.setDT_run (v : Byte) : (s.setDT v).run = s.run := rfl
@[simp] theorem State.setDT_cfg (v : Byte) : (s.setDT v).cfg = s.cfg := rfl
@[simp] theorem State.setDT_draws (v : Byte) : (s.setDT v).draws = s.draws := rfl
@[simp] theorem State.setDT_diag (v : Byte) : (s.setDT v).diag = s.diag := rfl

/-! ## `ST <- v` -/

@[simp] theorem State.setST_mem (v : Byte) : (s.setST v).mem = s.mem := rfl
@[simp] theorem State.setST_V (v : Byte) : (s.setST v).V = s.V := rfl
@[simp] theorem State.setST_I (v : Byte) : (s.setST v).I = s.I := rfl
@[simp] theorem State.setST_PC (v : Byte) : (s.setST v).PC = s.PC := rfl
@[simp] theorem State.setST_stack (v : Byte) : (s.setST v).stack = s.stack := rfl
@[simp] theorem State.setST_SP (v : Byte) : (s.setST v).SP = s.SP := rfl
@[simp] theorem State.setST_disp (v : Byte) : (s.setST v).disp = s.disp := rfl
@[simp] theorem State.setST_DT (v : Byte) : (s.setST v).DT = s.DT := rfl
@[simp] theorem State.setST_ST (v : Byte) : (s.setST v).ST = v := rfl
@[simp] theorem State.setST_key (v : Byte) : (s.setST v).key = s.key := rfl
@[simp] theorem State.setST_await (v : Byte) : (s.setST v).await = s.await := rfl
@[simp] theorem State.setST_kedge (v : Byte) : (s.setST v).kedge = s.kedge := rfl
@[simp] theorem State.setST_run (v : Byte) : (s.setST v).run = s.run := rfl
@[simp] theorem State.setST_cfg (v : Byte) : (s.setST v).cfg = s.cfg := rfl
@[simp] theorem State.setST_draws (v : Byte) : (s.setST v).draws = s.draws := rfl
@[simp] theorem State.setST_diag (v : Byte) : (s.setST v).diag = s.diag := rfl

/-! ## `disp <- d` -/

@[simp] theorem State.setDisp_mem (d : Display) : (s.setDisp d).mem = s.mem := rfl
@[simp] theorem State.setDisp_V (d : Display) : (s.setDisp d).V = s.V := rfl
@[simp] theorem State.setDisp_I (d : Display) : (s.setDisp d).I = s.I := rfl
@[simp] theorem State.setDisp_PC (d : Display) : (s.setDisp d).PC = s.PC := rfl
@[simp] theorem State.setDisp_stack (d : Display) : (s.setDisp d).stack = s.stack := rfl
@[simp] theorem State.setDisp_SP (d : Display) : (s.setDisp d).SP = s.SP := rfl
@[simp] theorem State.setDisp_disp (d : Display) : (s.setDisp d).disp = d := rfl
@[simp] theorem State.setDisp_DT (d : Display) : (s.setDisp d).DT = s.DT := rfl
@[simp] theorem State.setDisp_ST (d : Display) : (s.setDisp d).ST = s.ST := rfl
@[simp] theorem State.setDisp_key (d : Display) : (s.setDisp d).key = s.key := rfl
@[simp] theorem State.setDisp_await (d : Display) : (s.setDisp d).await = s.await := rfl
@[simp] theorem State.setDisp_kedge (d : Display) : (s.setDisp d).kedge = s.kedge := rfl
@[simp] theorem State.setDisp_run (d : Display) : (s.setDisp d).run = s.run := rfl
@[simp] theorem State.setDisp_cfg (d : Display) : (s.setDisp d).cfg = s.cfg := rfl
@[simp] theorem State.setDisp_draws (d : Display) : (s.setDisp d).draws = s.draws := rfl
@[simp] theorem State.setDisp_diag (d : Display) : (s.setDisp d).diag = s.diag := rfl

/-! ## Byte stores -/

@[simp] theorem State.storeBytes_mem (a : Nat) (vs : List Byte) : (s.storeBytes a vs).mem = Memory.writeBytes s.cfg s.mem a vs := rfl
@[simp] theorem State.storeBytes_V (a : Nat) (vs : List Byte) : (s.storeBytes a vs).V = s.V := rfl
@[simp] theorem State.storeBytes_I (a : Nat) (vs : List Byte) : (s.storeBytes a vs).I = s.I := rfl
@[simp] theorem State.storeBytes_PC (a : Nat) (vs : List Byte) : (s.storeBytes a vs).PC = s.PC := rfl
@[simp] theorem State.storeBytes_stack (a : Nat) (vs : List Byte) : (s.storeBytes a vs).stack = s.stack := rfl
@[simp] theorem State.storeBytes_SP (a : Nat) (vs : List Byte) : (s.storeBytes a vs).SP = s.SP := rfl
@[simp] theorem State.storeBytes_disp (a : Nat) (vs : List Byte) : (s.storeBytes a vs).disp = s.disp := rfl
@[simp] theorem State.storeBytes_DT (a : Nat) (vs : List Byte) : (s.storeBytes a vs).DT = s.DT := rfl
@[simp] theorem State.storeBytes_ST (a : Nat) (vs : List Byte) : (s.storeBytes a vs).ST = s.ST := rfl
@[simp] theorem State.storeBytes_key (a : Nat) (vs : List Byte) : (s.storeBytes a vs).key = s.key := rfl
@[simp] theorem State.storeBytes_await (a : Nat) (vs : List Byte) : (s.storeBytes a vs).await = s.await := rfl
@[simp] theorem State.storeBytes_kedge (a : Nat) (vs : List Byte) : (s.storeBytes a vs).kedge = s.kedge := rfl
@[simp] theorem State.storeBytes_run (a : Nat) (vs : List Byte) : (s.storeBytes a vs).run = s.run := rfl
@[simp] theorem State.storeBytes_cfg (a : Nat) (vs : List Byte) : (s.storeBytes a vs).cfg = s.cfg := rfl
@[simp] theorem State.storeBytes_draws (a : Nat) (vs : List Byte) : (s.storeBytes a vs).draws = s.draws := rfl
@[simp] theorem State.storeBytes_diag (a : Nat) (vs : List Byte) : (s.storeBytes a vs).diag = s.diag := rfl

/-! ## A diagnostic -/

@[simp] theorem State.raise_mem (d : Diag) : (s.raise d).mem = s.mem := rfl
@[simp] theorem State.raise_V (d : Diag) : (s.raise d).V = s.V := rfl
@[simp] theorem State.raise_I (d : Diag) : (s.raise d).I = s.I := rfl
@[simp] theorem State.raise_PC (d : Diag) : (s.raise d).PC = s.PC := rfl
@[simp] theorem State.raise_stack (d : Diag) : (s.raise d).stack = s.stack := rfl
@[simp] theorem State.raise_SP (d : Diag) : (s.raise d).SP = s.SP := rfl
@[simp] theorem State.raise_disp (d : Diag) : (s.raise d).disp = s.disp := rfl
@[simp] theorem State.raise_DT (d : Diag) : (s.raise d).DT = s.DT := rfl
@[simp] theorem State.raise_ST (d : Diag) : (s.raise d).ST = s.ST := rfl
@[simp] theorem State.raise_key (d : Diag) : (s.raise d).key = s.key := rfl
@[simp] theorem State.raise_await (d : Diag) : (s.raise d).await = s.await := rfl
@[simp] theorem State.raise_kedge (d : Diag) : (s.raise d).kedge = s.kedge := rfl
@[simp] theorem State.raise_run (d : Diag) : (s.raise d).run = s.run := rfl
@[simp] theorem State.raise_cfg (d : Diag) : (s.raise d).cfg = s.cfg := rfl
@[simp] theorem State.raise_draws (d : Diag) : (s.raise d).draws = s.draws := rfl
@[simp] theorem State.raise_diag (d : Diag) : (s.raise d).diag = d := rfl

/-! ## The state between commands -/

@[simp] theorem State.withoutDiag_mem : s.withoutDiag.mem = s.mem := rfl
@[simp] theorem State.withoutDiag_V : s.withoutDiag.V = s.V := rfl
@[simp] theorem State.withoutDiag_I : s.withoutDiag.I = s.I := rfl
@[simp] theorem State.withoutDiag_PC : s.withoutDiag.PC = s.PC := rfl
@[simp] theorem State.withoutDiag_stack : s.withoutDiag.stack = s.stack := rfl
@[simp] theorem State.withoutDiag_SP : s.withoutDiag.SP = s.SP := rfl
@[simp] theorem State.withoutDiag_disp : s.withoutDiag.disp = s.disp := rfl
@[simp] theorem State.withoutDiag_DT : s.withoutDiag.DT = s.DT := rfl
@[simp] theorem State.withoutDiag_ST : s.withoutDiag.ST = s.ST := rfl
@[simp] theorem State.withoutDiag_key : s.withoutDiag.key = s.key := rfl
@[simp] theorem State.withoutDiag_await : s.withoutDiag.await = s.await := rfl
@[simp] theorem State.withoutDiag_kedge : s.withoutDiag.kedge = s.kedge := rfl
@[simp] theorem State.withoutDiag_run : s.withoutDiag.run = s.run := rfl
@[simp] theorem State.withoutDiag_cfg : s.withoutDiag.cfg = s.cfg := rfl
@[simp] theorem State.withoutDiag_draws : s.withoutDiag.draws = s.draws := rfl
@[simp] theorem State.withoutDiag_diag : s.withoutDiag.diag = .none := rfl

/-! ## A push -/

@[simp] theorem State.push_mem (v : Word) : (s.push v).mem = s.mem := rfl
@[simp] theorem State.push_V (v : Word) : (s.push v).V = s.V := rfl
@[simp] theorem State.push_I (v : Word) : (s.push v).I = s.I := rfl
@[simp] theorem State.push_PC (v : Word) : (s.push v).PC = s.PC := rfl
@[simp] theorem State.push_stack (v : Word) : (s.push v).stack = s.stack.setIfInBounds s.SP.val v := rfl
@[simp] theorem State.push_SP (v : Word) : (s.push v).SP = s.SP + 1 := rfl
@[simp] theorem State.push_disp (v : Word) : (s.push v).disp = s.disp := rfl
@[simp] theorem State.push_DT (v : Word) : (s.push v).DT = s.DT := rfl
@[simp] theorem State.push_ST (v : Word) : (s.push v).ST = s.ST := rfl
@[simp] theorem State.push_key (v : Word) : (s.push v).key = s.key := rfl
@[simp] theorem State.push_await (v : Word) : (s.push v).await = s.await := rfl
@[simp] theorem State.push_kedge (v : Word) : (s.push v).kedge = s.kedge := rfl
@[simp] theorem State.push_run (v : Word) : (s.push v).run = s.run := rfl
@[simp] theorem State.push_cfg (v : Word) : (s.push v).cfg = s.cfg := rfl
@[simp] theorem State.push_draws (v : Word) : (s.push v).draws = s.draws := rfl
@[simp] theorem State.push_diag (v : Word) : (s.push v).diag = s.diag := rfl

/-! ## A pop -/

@[simp] theorem State.pop_mem : (s.pop).mem = s.mem := rfl
@[simp] theorem State.pop_V : (s.pop).V = s.V := rfl
@[simp] theorem State.pop_I : (s.pop).I = s.I := rfl
@[simp] theorem State.pop_PC : (s.pop).PC = s.PC := rfl
@[simp] theorem State.pop_stack : (s.pop).stack = s.stack := rfl
@[simp] theorem State.pop_SP : (s.pop).SP = s.SP - 1 := rfl
@[simp] theorem State.pop_disp : (s.pop).disp = s.disp := rfl
@[simp] theorem State.pop_DT : (s.pop).DT = s.DT := rfl
@[simp] theorem State.pop_ST : (s.pop).ST = s.ST := rfl
@[simp] theorem State.pop_key : (s.pop).key = s.key := rfl
@[simp] theorem State.pop_await : (s.pop).await = s.await := rfl
@[simp] theorem State.pop_kedge : (s.pop).kedge = s.kedge := rfl
@[simp] theorem State.pop_run : (s.pop).run = s.run := rfl
@[simp] theorem State.pop_cfg : (s.pop).cfg = s.cfg := rfl
@[simp] theorem State.pop_draws : (s.pop).draws = s.draws := rfl
@[simp] theorem State.pop_diag : (s.pop).diag = s.diag := rfl

/-! ## A successful fetch -/

@[simp] theorem State.fetched_mem : (s.fetched).mem = s.mem := rfl
@[simp] theorem State.fetched_V : (s.fetched).V = s.V := rfl
@[simp] theorem State.fetched_I : (s.fetched).I = s.I := rfl
@[simp] theorem State.fetched_PC : (s.fetched).PC = s.PC + 2 := rfl
@[simp] theorem State.fetched_stack : (s.fetched).stack = s.stack := rfl
@[simp] theorem State.fetched_SP : (s.fetched).SP = s.SP := rfl
@[simp] theorem State.fetched_disp : (s.fetched).disp = s.disp := rfl
@[simp] theorem State.fetched_DT : (s.fetched).DT = s.DT := rfl
@[simp] theorem State.fetched_ST : (s.fetched).ST = s.ST := rfl
@[simp] theorem State.fetched_key : (s.fetched).key = s.key := rfl
@[simp] theorem State.fetched_await : (s.fetched).await = s.await := rfl
@[simp] theorem State.fetched_kedge : (s.fetched).kedge = s.kedge := rfl
@[simp] theorem State.fetched_run : (s.fetched).run = s.run := rfl
@[simp] theorem State.fetched_cfg : (s.fetched).cfg = s.cfg := rfl
@[simp] theorem State.fetched_draws : (s.fetched).draws = s.draws := rfl
@[simp] theorem State.fetched_diag : (s.fetched).diag = .none := rfl

/-! ## Entry to the awaiting-key sub-state -/

@[simp] theorem State.enterAwait_mem (x : RegSel) : (s.enterAwait x).mem = s.mem := rfl
@[simp] theorem State.enterAwait_V (x : RegSel) : (s.enterAwait x).V = s.V := rfl
@[simp] theorem State.enterAwait_I (x : RegSel) : (s.enterAwait x).I = s.I := rfl
@[simp] theorem State.enterAwait_PC (x : RegSel) : (s.enterAwait x).PC = s.PC := rfl
@[simp] theorem State.enterAwait_stack (x : RegSel) : (s.enterAwait x).stack = s.stack := rfl
@[simp] theorem State.enterAwait_SP (x : RegSel) : (s.enterAwait x).SP = s.SP := rfl
@[simp] theorem State.enterAwait_disp (x : RegSel) : (s.enterAwait x).disp = s.disp := rfl
@[simp] theorem State.enterAwait_DT (x : RegSel) : (s.enterAwait x).DT = s.DT := rfl
@[simp] theorem State.enterAwait_ST (x : RegSel) : (s.enterAwait x).ST = s.ST := rfl
@[simp] theorem State.enterAwait_key (x : RegSel) : (s.enterAwait x).key = s.key := rfl
@[simp] theorem State.enterAwait_await (x : RegSel) : (s.enterAwait x).await = some x := rfl
@[simp] theorem State.enterAwait_kedge (x : RegSel) : (s.enterAwait x).kedge = .replicate 16 false := rfl
@[simp] theorem State.enterAwait_run (x : RegSel) : (s.enterAwait x).run = s.run := rfl
@[simp] theorem State.enterAwait_cfg (x : RegSel) : (s.enterAwait x).cfg = s.cfg := rfl
@[simp] theorem State.enterAwait_draws (x : RegSel) : (s.enterAwait x).draws = s.draws := rfl
@[simp] theorem State.enterAwait_diag (x : RegSel) : (s.enterAwait x).diag = s.diag := rfl

/-! ## Leaving the awaiting-key sub-state -/

@[simp] theorem State.leaveAwait_mem : (s.leaveAwait).mem = s.mem := rfl
@[simp] theorem State.leaveAwait_V : (s.leaveAwait).V = s.V := rfl
@[simp] theorem State.leaveAwait_I : (s.leaveAwait).I = s.I := rfl
@[simp] theorem State.leaveAwait_PC : (s.leaveAwait).PC = s.PC := rfl
@[simp] theorem State.leaveAwait_stack : (s.leaveAwait).stack = s.stack := rfl
@[simp] theorem State.leaveAwait_SP : (s.leaveAwait).SP = s.SP := rfl
@[simp] theorem State.leaveAwait_disp : (s.leaveAwait).disp = s.disp := rfl
@[simp] theorem State.leaveAwait_DT : (s.leaveAwait).DT = s.DT := rfl
@[simp] theorem State.leaveAwait_ST : (s.leaveAwait).ST = s.ST := rfl
@[simp] theorem State.leaveAwait_key : (s.leaveAwait).key = s.key := rfl
@[simp] theorem State.leaveAwait_await : (s.leaveAwait).await = none := rfl
@[simp] theorem State.leaveAwait_kedge : (s.leaveAwait).kedge = .replicate 16 false := rfl
@[simp] theorem State.leaveAwait_run : (s.leaveAwait).run = s.run := rfl
@[simp] theorem State.leaveAwait_cfg : (s.leaveAwait).cfg = s.cfg := rfl
@[simp] theorem State.leaveAwait_draws : (s.leaveAwait).draws = s.draws := rfl
@[simp] theorem State.leaveAwait_diag : (s.leaveAwait).diag = s.diag := rfl

/-! ## A consumed draw -/

@[simp] theorem State.consumeDraw_mem : (s.consumeDraw).mem = s.mem := rfl
@[simp] theorem State.consumeDraw_V : (s.consumeDraw).V = s.V := rfl
@[simp] theorem State.consumeDraw_I : (s.consumeDraw).I = s.I := rfl
@[simp] theorem State.consumeDraw_PC : (s.consumeDraw).PC = s.PC := rfl
@[simp] theorem State.consumeDraw_stack : (s.consumeDraw).stack = s.stack := rfl
@[simp] theorem State.consumeDraw_SP : (s.consumeDraw).SP = s.SP := rfl
@[simp] theorem State.consumeDraw_disp : (s.consumeDraw).disp = s.disp := rfl
@[simp] theorem State.consumeDraw_DT : (s.consumeDraw).DT = s.DT := rfl
@[simp] theorem State.consumeDraw_ST : (s.consumeDraw).ST = s.ST := rfl
@[simp] theorem State.consumeDraw_key : (s.consumeDraw).key = s.key := rfl
@[simp] theorem State.consumeDraw_await : (s.consumeDraw).await = s.await := rfl
@[simp] theorem State.consumeDraw_kedge : (s.consumeDraw).kedge = s.kedge := rfl
@[simp] theorem State.consumeDraw_run : (s.consumeDraw).run = s.run := rfl
@[simp] theorem State.consumeDraw_cfg : (s.consumeDraw).cfg = s.cfg := rfl
@[simp] theorem State.consumeDraw_draws : (s.consumeDraw).draws = s.draws + 1 := rfl
@[simp] theorem State.consumeDraw_diag : (s.consumeDraw).diag = s.diag := rfl

/-! ## A skip -/

@[simp] theorem State.skipIf_mem (c : Bool) : (s.skipIf c).mem = s.mem := rfl
@[simp] theorem State.skipIf_V (c : Bool) : (s.skipIf c).V = s.V := rfl
@[simp] theorem State.skipIf_I (c : Bool) : (s.skipIf c).I = s.I := rfl
@[simp] theorem State.skipIf_PC (c : Bool) : (s.skipIf c).PC = if c then s.PC + 2 else s.PC := rfl
@[simp] theorem State.skipIf_stack (c : Bool) : (s.skipIf c).stack = s.stack := rfl
@[simp] theorem State.skipIf_SP (c : Bool) : (s.skipIf c).SP = s.SP := rfl
@[simp] theorem State.skipIf_disp (c : Bool) : (s.skipIf c).disp = s.disp := rfl
@[simp] theorem State.skipIf_DT (c : Bool) : (s.skipIf c).DT = s.DT := rfl
@[simp] theorem State.skipIf_ST (c : Bool) : (s.skipIf c).ST = s.ST := rfl
@[simp] theorem State.skipIf_key (c : Bool) : (s.skipIf c).key = s.key := rfl
@[simp] theorem State.skipIf_await (c : Bool) : (s.skipIf c).await = s.await := rfl
@[simp] theorem State.skipIf_kedge (c : Bool) : (s.skipIf c).kedge = s.kedge := rfl
@[simp] theorem State.skipIf_run (c : Bool) : (s.skipIf c).run = s.run := rfl
@[simp] theorem State.skipIf_cfg (c : Bool) : (s.skipIf c).cfg = s.cfg := rfl
@[simp] theorem State.skipIf_draws (c : Bool) : (s.skipIf c).draws = s.draws := rfl
@[simp] theorem State.skipIf_diag (c : Bool) : (s.skipIf c).diag = s.diag := rfl

/-! ## A result and a flag -/

@[simp] theorem State.setRegFlag_mem (x : RegSel) (v : Byte) (b : Bool) : (s.setRegFlag x v b).mem = s.mem := rfl
@[simp] theorem State.setRegFlag_I (x : RegSel) (v : Byte) (b : Bool) : (s.setRegFlag x v b).I = s.I := rfl
@[simp] theorem State.setRegFlag_PC (x : RegSel) (v : Byte) (b : Bool) : (s.setRegFlag x v b).PC = s.PC := rfl
@[simp] theorem State.setRegFlag_stack (x : RegSel) (v : Byte) (b : Bool) : (s.setRegFlag x v b).stack = s.stack := rfl
@[simp] theorem State.setRegFlag_SP (x : RegSel) (v : Byte) (b : Bool) : (s.setRegFlag x v b).SP = s.SP := rfl
@[simp] theorem State.setRegFlag_disp (x : RegSel) (v : Byte) (b : Bool) : (s.setRegFlag x v b).disp = s.disp := rfl
@[simp] theorem State.setRegFlag_DT (x : RegSel) (v : Byte) (b : Bool) : (s.setRegFlag x v b).DT = s.DT := rfl
@[simp] theorem State.setRegFlag_ST (x : RegSel) (v : Byte) (b : Bool) : (s.setRegFlag x v b).ST = s.ST := rfl
@[simp] theorem State.setRegFlag_key (x : RegSel) (v : Byte) (b : Bool) : (s.setRegFlag x v b).key = s.key := rfl
@[simp] theorem State.setRegFlag_await (x : RegSel) (v : Byte) (b : Bool) : (s.setRegFlag x v b).await = s.await := rfl
@[simp] theorem State.setRegFlag_kedge (x : RegSel) (v : Byte) (b : Bool) : (s.setRegFlag x v b).kedge = s.kedge := rfl
@[simp] theorem State.setRegFlag_run (x : RegSel) (v : Byte) (b : Bool) : (s.setRegFlag x v b).run = s.run := rfl
@[simp] theorem State.setRegFlag_cfg (x : RegSel) (v : Byte) (b : Bool) : (s.setRegFlag x v b).cfg = s.cfg := rfl
@[simp] theorem State.setRegFlag_draws (x : RegSel) (v : Byte) (b : Bool) : (s.setRegFlag x v b).draws = s.draws := rfl
@[simp] theorem State.setRegFlag_diag (x : RegSel) (v : Byte) (b : Bool) : (s.setRegFlag x v b).diag = s.diag := rfl

end Sys2Proof.Machine
end

