-- ==== Sys2Proof/Laws/Ops.lean ====
section
/-! SUPPORT. What each shared operation does, said once: registers, the range check, block loads, the call stack, press edges,
flags and digits. -/

namespace Sys2Proof.Machine

variable (s : State)

/-! ## Registers -/

@[simp] theorem State.reg_setReg_self (x : RegSel) (v : Byte) : (s.setReg x v).reg x = v := by
  simp [State.reg, State.setReg]

theorem State.reg_setReg_of_ne {x k : RegSel} (v : Byte) (h : k ≠ x) : (s.setReg x v).reg k = s.reg k := by
  have hne : x.toNat ≠ k.toNat := fun e => h (BitVec.eq_of_toNat_eq e.symm)
  simp [State.reg, State.setReg, hne]

theorem State.reg_setReg (x k : RegSel) (v : Byte) : (s.setReg x v).reg k = if k = x then v else s.reg k := by
  split
  · rename_i h
    rw [h, State.reg_setReg_self]
  · rename_i h
    exact State.reg_setReg_of_ne s v h

/-- Two states with equal registers have equal register files. -/
theorem regs_ext {V W : Vector Byte 16} (h : ∀ k : RegSel, V[k.toNat]'k.isLt = W[k.toNat]'k.isLt) : V = W := by
  apply Vector.ext
  intro i hi
  have hk := h (BitVec.ofNat 4 i)
  have e : (BitVec.ofNat 4 i).toNat = i := by
    simp only [BitVec.toNat_ofNat]
    omega
  simp only [e] at hk
  exact hk

/-- The flag is what VF holds after a result and a flag are written (decision D10). -/
@[simp] theorem State.reg_setRegFlag_vf (x : RegSel) (r : Byte) (b : Bool) : (s.setRegFlag x r b).reg vf = flagByte b := by
  simp [State.setRegFlag]

/-- Another destination holds the result. -/
theorem State.reg_setRegFlag_dest {x : RegSel} (r : Byte) (b : Bool) (h : x ≠ vf) : (s.setRegFlag x r b).reg x = r := by
  rw [State.setRegFlag, State.reg_setReg_of_ne _ _ h, State.reg_setReg_self]

/-- Every other register is unchanged. -/
theorem State.reg_setRegFlag_other {x k : RegSel} (r : Byte) (b : Bool) (hx : k ≠ x) (hf : k ≠ vf) :
    (s.setRegFlag x r b).reg k = s.reg k := by
  rw [State.setRegFlag, State.reg_setReg_of_ne _ _ hf, State.reg_setReg_of_ne _ _ hx]

/-- `readByte` depends only on memory and the parameters. -/
theorem State.readByte_congr {s t : State} (hm : t.mem = s.mem) (hc : t.cfg = s.cfg) (a : Nat) :
    t.readByte a = s.readByte a := by
  simp [State.readByte, hm, hc]

/-! ## The range check (20_memory.md R74) -/

/-- The check passes exactly when every byte lies in memory. -/
theorem rangeError_eq_none {start count : Nat} : rangeError start count = none ↔ count = 0 ∨ start + count ≤ memSize := by
  unfold rangeError
  split <;> simp <;> omega

/-- When it fails it names the lowest address at or above `MEM_SIZE`. -/
theorem rangeError_eq_some {start count a : Nat} :
    rangeError start count = some a ↔ (0 < count ∧ memSize < start + count) ∧ a = max start memSize := by
  unfold rangeError
  split <;> simp <;> omega

/-- A fetch at PC is in range exactly below 0x0FFF (40_step_cycle.md R117). -/
theorem State.fetchError_eq_none : s.fetchError = none ↔ s.PC.toNat < 0x0FFF := by
  rw [State.fetchError, rangeError_eq_none]
  simp only [memSize]
  omega

/-! ## Stores -/

theorem State.readByte_storeBytes_outside {a b : Nat} (vs : List Byte) (h : b < a ∨ a + vs.length ≤ b) :
    (s.storeBytes a vs).readByte b = s.readByte b :=
  Memory.read_writeBytes_outside vs h

theorem State.readByte_storeBytes_inside {a k : Nat} (vs : List Byte) (hm : Memory.wf s.cfg s.mem = true)
    (ha : a + vs.length ≤ memSize) (hk : k < vs.length) : (s.storeBytes a vs).readByte (a + k) = vs[k] :=
  Memory.read_writeBytes_inside vs hm ha hk

@[simp] theorem bcdDigits_length (v : Byte) : (bcdDigits v).length = 3 := rfl

@[simp] theorem State.blockRegs_length (x : RegSel) : (s.blockRegs x).length = blockCount x := by
  have := x.isLt
  simp [State.blockRegs, blockCount]
  omega

/-- The k-th byte of the block FX55 stores is V[k]. -/
theorem State.blockRegs_getElem (x : RegSel) {k : Nat} (hk : k < (s.blockRegs x).length) (h16 : k < 16) :
    (s.blockRegs x)[k] = s.V[k] := by
  simp [State.blockRegs]

/-! ## Block load (43_index_memory.md R185) -/

/-- The registers below `n` are loaded and the others are unchanged. -/
theorem loadRegs_getElem (f : Nat → Byte) (n : Nat) (V : Vector Byte 16) {k : Nat} (hk : k < 16) :
    (loadRegs f n V)[k] = if k < n then f k else V[k] := by
  induction n with
  | zero => simp [loadRegs]
  | succ n ih =>
    simp only [loadRegs]
    rw [Vector.getElem_setIfInBounds hk]
    by_cases h : n = k
    · subst h
      simp
    · rw [if_neg h, ih]
      have : k < n + 1 ↔ k < n := by omega
      simp [this]

/-! ## Call stack (10_state.md R38) -/

theorem Config.stackDepth_ge (c : Config) : 12 ≤ c.stackDepth := by
  simp [Config.stackDepth]

theorem Config.stackDepth_le (c : Config) : c.stackDepth ≤ 16 := by
  have := c.stackExtra.isLt
  simp only [Config.stackDepth]
  omega

theorem State.stackFull_eq_false : s.stackFull = false ↔ s.SP.val < s.cfg.stackDepth := by
  simp [State.stackFull]

theorem State.stackEmpty_eq_false : s.stackEmpty = false ↔ 0 < s.SP.val := by
  simp [State.stackEmpty, Nat.pos_iff_ne_zero]

/-- A push below the capacity raises the depth by one. -/
theorem State.push_depth (v : Word) (h : s.stackFull = false) : (s.push v).SP.val = s.SP.val + 1 := by
  have h1 := (State.stackFull_eq_false s).1 h
  have h2 := Config.stackDepth_le s.cfg
  simp only [State.push, Fin.val_add]
  show (s.SP.val + 1) % 17 = _
  omega

/-- A pop of a live entry lowers the depth by one. -/
theorem State.pop_depth (h : s.stackEmpty = false) : s.pop.SP.val = s.SP.val - 1 := by
  have h1 := (State.stackEmpty_eq_false s).1 h
  have h2 := s.SP.isLt
  simp only [State.pop, Fin.sub_def]
  show (17 - 1 + s.SP.val) % 17 = _
  omega

/-- The top is entry `SP - 1`. -/
theorem State.top_eq_getElem : s.top = s.stack[s.SP.val - 1]'(by omega) := by
  have h1 := s.SP.isLt
  simp only [State.top, Vector.getD, Array.getD]
  rw [dif_pos (by simp; omega)]
  rfl

/-- The top after a push is the value pushed. -/
theorem State.top_push (v : Word) (h : s.stackFull = false) : (s.push v).top = v := by
  have h1 := (State.stackFull_eq_false s).1 h
  have h2 := Config.stackDepth_le s.cfg
  have h3 := State.push_depth s v h
  simp only [State.top, h3, Nat.add_sub_cancel]
  simp [State.push, Vector.getD, Array.getD, show s.SP.val < 16 by omega]

/-! ## Press edges (45_timers_keys.md R226) -/

/-- The least edge is an edge, and no smaller key has one. -/
theorem leastEdge_eq_some {e : Vector Bool 16} {k : Nibble} (h : leastEdge e = some k) :
    e[k.toNat]'k.isLt = true ∧ ∀ j : Nibble, j.toNat < k.toNat → e[j.toNat]'j.isLt = false := by
  simp only [leastEdge, Option.map_eq_some_iff] at h
  obtain ⟨n, hn, rfl⟩ := h
  rw [List.findIdx?_eq_some_iff_getElem] at hn
  obtain ⟨hlt, hp, hmin⟩ := hn
  simp only [Vector.length_toList] at hlt
  have e : (BitVec.ofNat 4 n).toNat = n := by
    simp only [BitVec.toNat_ofNat]
    omega
  simp only [e]
  refine ⟨by simpa using hp, fun j hj => ?_⟩
  have := hmin j.toNat hj
  simpa using this

/-- No least edge means no edge. -/
theorem leastEdge_eq_none {e : Vector Bool 16} (h : leastEdge e = none) (k : Nibble) : e[k.toNat]'k.isLt = false := by
  simp only [leastEdge, Option.map_eq_none_iff, List.findIdx?_eq_none_iff] at h
  have := h (e[k.toNat]'k.isLt) (by simp)
  simpa using this

/-! ## Flags, results and digits as integers -/

theorem sumByte_toNat (a b : Byte) : (sumByte a b).toNat = (a.toNat + b.toNat) % 256 := by
  simp [sumByte]

theorem differenceByte_toNat (a b : Byte) : (differenceByte a b).toNat = (a.toNat + (256 - b.toNat)) % 256 := by
  have ha := a.isLt
  have hb := b.isLt
  simp only [differenceByte, BitVec.toNat_ofInt]
  omega

theorem halfByte_toNat (v : Byte) : (halfByte v).toNat = v.toNat / 2 := by
  have := v.isLt
  simp only [halfByte, BitVec.toNat_ofNat]
  omega

theorem doubleByte_toNat (v : Byte) : (doubleByte v).toNat = v.toNat * 2 % 256 := by
  simp [doubleByte]

theorem shiftedOutRight_eq (v : Byte) : shiftedOutRight v = v.getLsbD 0 := by
  simp [shiftedOutRight, BitVec.getLsbD, Nat.testBit_zero]

theorem shiftedOutLeft_eq (v : Byte) : shiftedOutLeft v = v.getLsbD 7 := by
  revert v
  decide

theorem glyphOperand_toNat (v : Byte) : (glyphOperand v).toNat = 5 * (v.toNat % 16) := by
  simp only [glyphOperand, fontBase, BitVec.toNat_ofNat]
  omega

theorem keyOperand_toNat (v : Byte) : (keyOperand v).toNat = v.toNat % 16 := by
  simp [keyOperand]

theorem addrOperand_toNat (nnn : Addr12) : (addrOperand nnn).toNat = nnn.toNat := by
  have := nnn.isLt
  simp only [addrOperand, BitVec.toNat_setWidth]
  omega

theorem indexOperand_toNat (v : Byte) : (indexOperand v).toNat = v.toNat := by
  have := v.isLt
  simp only [indexOperand, BitVec.toNat_setWidth]
  omega

/-! ## Skips -/

theorem State.skipIf_true : s.skipIf true = s.setPC (s.PC + 2) := rfl

theorem State.skipIf_false : s.skipIf false = s := rfl

end Sys2Proof.Machine
end

