-- ==== Sys2Proof/Laws/PerInstr.lean ====
section
/-! SUPPORT. Per instruction: the word the encoder gives it matches its row of spec/opcode_table.json. -/

namespace Sys2Proof.Laws.EncodesTableRow

/-- The mask and match of the row of spec/opcode_table.json that an instruction stands for. -/
def row : Instr → Word × Word
  | .cls => (0xFFFF, 0x00E0)
  | .ret => (0xFFFF, 0x00EE)
  | .sys _ => (0xF000, 0x0000)
  | .jp _ => (0xF000, 0x1000)
  | .call _ => (0xF000, 0x2000)
  | .seImm _ _ => (0xF000, 0x3000)
  | .sneImm _ _ => (0xF000, 0x4000)
  | .seReg _ _ => (0xF00F, 0x5000)
  | .ldImm _ _ => (0xF000, 0x6000)
  | .addImm _ _ => (0xF000, 0x7000)
  | .ldReg _ _ => (0xF00F, 0x8000)
  | .or _ _ => (0xF00F, 0x8001)
  | .and _ _ => (0xF00F, 0x8002)
  | .xor _ _ => (0xF00F, 0x8003)
  | .addReg _ _ => (0xF00F, 0x8004)
  | .sub _ _ => (0xF00F, 0x8005)
  | .shr _ _ => (0xF00F, 0x8006)
  | .subn _ _ => (0xF00F, 0x8007)
  | .shl _ _ => (0xF00F, 0x800E)
  | .sneReg _ _ => (0xF00F, 0x9000)
  | .ldI _ => (0xF000, 0xA000)
  | .jpV0 _ => (0xF000, 0xB000)
  | .rnd _ _ => (0xF000, 0xC000)
  | .drw _ _ _ => (0xF000, 0xD000)
  | .skp _ => (0xF0FF, 0xE09E)
  | .sknp _ => (0xF0FF, 0xE0A1)
  | .ldVxDt _ => (0xF0FF, 0xF007)
  | .ldVxK _ => (0xF0FF, 0xF00A)
  | .ldDtVx _ => (0xF0FF, 0xF015)
  | .ldStVx _ => (0xF0FF, 0xF018)
  | .addIVx _ => (0xF0FF, 0xF01E)
  | .ldFVx _ => (0xF0FF, 0xF029)
  | .ldBVx _ => (0xF0FF, 0xF033)
  | .ldIVx _ => (0xF0FF, 0xF055)
  | .ldVxI _ => (0xF0FF, 0xF065)

/-- The word of `i` agrees with its row's match under its row's mask. -/
def Statement (i : Instr) : Prop := encode i &&& (row i).1 = (row i).2

theorem cls : Statement .cls := rfl
theorem ret : Statement .ret := rfl
theorem sys (nnn : Addr12) : Statement (.sys nnn) :=
  matches_F000 (m := 0x0000) (f := 0x0) rfl (fieldFamily_formatFA _ _)
theorem jp (nnn : Addr12) : Statement (.jp nnn) :=
  matches_F000 (m := 0x1000) (f := 0x1) rfl (fieldFamily_formatFA _ _)
theorem call (nnn : Addr12) : Statement (.call nnn) :=
  matches_F000 (m := 0x2000) (f := 0x2) rfl (fieldFamily_formatFA _ _)
theorem seImm (x : RegSel) (nn : Byte) : Statement (.seImm x nn) :=
  matches_F000 (m := 0x3000) (f := 0x3) rfl (fieldFamily_formatFXNN _ _ _)
theorem sneImm (x : RegSel) (nn : Byte) : Statement (.sneImm x nn) :=
  matches_F000 (m := 0x4000) (f := 0x4) rfl (fieldFamily_formatFXNN _ _ _)
theorem seReg (x : RegSel) (y : RegSel) : Statement (.seReg x y) :=
  matches_F00F (m := 0x5000) (f := 0x5) (n := 0x0) rfl (fieldFamily_formatFXYN _ _ _ _) (fieldN_formatFXYN _ _ _ _)
theorem ldImm (x : RegSel) (nn : Byte) : Statement (.ldImm x nn) :=
  matches_F000 (m := 0x6000) (f := 0x6) rfl (fieldFamily_formatFXNN _ _ _)
theorem addImm (x : RegSel) (nn : Byte) : Statement (.addImm x nn) :=
  matches_F000 (m := 0x7000) (f := 0x7) rfl (fieldFamily_formatFXNN _ _ _)
theorem ldReg (x : RegSel) (y : RegSel) : Statement (.ldReg x y) :=
  matches_F00F (m := 0x8000) (f := 0x8) (n := 0x0) rfl (fieldFamily_formatFXYN _ _ _ _) (fieldN_formatFXYN _ _ _ _)
theorem or (x : RegSel) (y : RegSel) : Statement (.or x y) :=
  matches_F00F (m := 0x8001) (f := 0x8) (n := 0x1) rfl (fieldFamily_formatFXYN _ _ _ _) (fieldN_formatFXYN _ _ _ _)
theorem and (x : RegSel) (y : RegSel) : Statement (.and x y) :=
  matches_F00F (m := 0x8002) (f := 0x8) (n := 0x2) rfl (fieldFamily_formatFXYN _ _ _ _) (fieldN_formatFXYN _ _ _ _)
theorem xor (x : RegSel) (y : RegSel) : Statement (.xor x y) :=
  matches_F00F (m := 0x8003) (f := 0x8) (n := 0x3) rfl (fieldFamily_formatFXYN _ _ _ _) (fieldN_formatFXYN _ _ _ _)
theorem addReg (x : RegSel) (y : RegSel) : Statement (.addReg x y) :=
  matches_F00F (m := 0x8004) (f := 0x8) (n := 0x4) rfl (fieldFamily_formatFXYN _ _ _ _) (fieldN_formatFXYN _ _ _ _)
theorem sub (x : RegSel) (y : RegSel) : Statement (.sub x y) :=
  matches_F00F (m := 0x8005) (f := 0x8) (n := 0x5) rfl (fieldFamily_formatFXYN _ _ _ _) (fieldN_formatFXYN _ _ _ _)
theorem shr (x : RegSel) (y : RegSel) : Statement (.shr x y) :=
  matches_F00F (m := 0x8006) (f := 0x8) (n := 0x6) rfl (fieldFamily_formatFXYN _ _ _ _) (fieldN_formatFXYN _ _ _ _)
theorem subn (x : RegSel) (y : RegSel) : Statement (.subn x y) :=
  matches_F00F (m := 0x8007) (f := 0x8) (n := 0x7) rfl (fieldFamily_formatFXYN _ _ _ _) (fieldN_formatFXYN _ _ _ _)
theorem shl (x : RegSel) (y : RegSel) : Statement (.shl x y) :=
  matches_F00F (m := 0x800E) (f := 0x8) (n := 0xE) rfl (fieldFamily_formatFXYN _ _ _ _) (fieldN_formatFXYN _ _ _ _)
theorem sneReg (x : RegSel) (y : RegSel) : Statement (.sneReg x y) :=
  matches_F00F (m := 0x9000) (f := 0x9) (n := 0x0) rfl (fieldFamily_formatFXYN _ _ _ _) (fieldN_formatFXYN _ _ _ _)
theorem ldI (nnn : Addr12) : Statement (.ldI nnn) :=
  matches_F000 (m := 0xA000) (f := 0xA) rfl (fieldFamily_formatFA _ _)
theorem jpV0 (nnn : Addr12) : Statement (.jpV0 nnn) :=
  matches_F000 (m := 0xB000) (f := 0xB) rfl (fieldFamily_formatFA _ _)
theorem rnd (x : RegSel) (nn : Byte) : Statement (.rnd x nn) :=
  matches_F000 (m := 0xC000) (f := 0xC) rfl (fieldFamily_formatFXNN _ _ _)
theorem drw (x : RegSel) (y : RegSel) (n : Nibble) : Statement (.drw x y n) :=
  matches_F000 (m := 0xD000) (f := 0xD) rfl (fieldFamily_formatFXYN _ _ _ _)
theorem skp (x : RegSel) : Statement (.skp x) :=
  matches_F0FF (m := 0xE09E) (f := 0xE) (nn := 0x9E) rfl (fieldFamily_formatFXNN _ _ _) (fieldNN_formatFXNN _ _ _)
theorem sknp (x : RegSel) : Statement (.sknp x) :=
  matches_F0FF (m := 0xE0A1) (f := 0xE) (nn := 0xA1) rfl (fieldFamily_formatFXNN _ _ _) (fieldNN_formatFXNN _ _ _)
theorem ldVxDt (x : RegSel) : Statement (.ldVxDt x) :=
  matches_F0FF (m := 0xF007) (f := 0xF) (nn := 0x07) rfl (fieldFamily_formatFXNN _ _ _) (fieldNN_formatFXNN _ _ _)
theorem ldVxK (x : RegSel) : Statement (.ldVxK x) :=
  matches_F0FF (m := 0xF00A) (f := 0xF) (nn := 0x0A) rfl (fieldFamily_formatFXNN _ _ _) (fieldNN_formatFXNN _ _ _)
theorem ldDtVx (x : RegSel) : Statement (.ldDtVx x) :=
  matches_F0FF (m := 0xF015) (f := 0xF) (nn := 0x15) rfl (fieldFamily_formatFXNN _ _ _) (fieldNN_formatFXNN _ _ _)
theorem ldStVx (x : RegSel) : Statement (.ldStVx x) :=
  matches_F0FF (m := 0xF018) (f := 0xF) (nn := 0x18) rfl (fieldFamily_formatFXNN _ _ _) (fieldNN_formatFXNN _ _ _)
theorem addIVx (x : RegSel) : Statement (.addIVx x) :=
  matches_F0FF (m := 0xF01E) (f := 0xF) (nn := 0x1E) rfl (fieldFamily_formatFXNN _ _ _) (fieldNN_formatFXNN _ _ _)
theorem ldFVx (x : RegSel) : Statement (.ldFVx x) :=
  matches_F0FF (m := 0xF029) (f := 0xF) (nn := 0x29) rfl (fieldFamily_formatFXNN _ _ _) (fieldNN_formatFXNN _ _ _)
theorem ldBVx (x : RegSel) : Statement (.ldBVx x) :=
  matches_F0FF (m := 0xF033) (f := 0xF) (nn := 0x33) rfl (fieldFamily_formatFXNN _ _ _) (fieldNN_formatFXNN _ _ _)
theorem ldIVx (x : RegSel) : Statement (.ldIVx x) :=
  matches_F0FF (m := 0xF055) (f := 0xF) (nn := 0x55) rfl (fieldFamily_formatFXNN _ _ _) (fieldNN_formatFXNN _ _ _)
theorem ldVxI (x : RegSel) : Statement (.ldVxI x) :=
  matches_F0FF (m := 0xF065) (f := 0xF) (nn := 0x65) rfl (fieldFamily_formatFXNN _ _ _) (fieldNN_formatFXNN _ _ _)

end Sys2Proof.Laws.EncodesTableRow
end

