-- ==== Sys2Proof/Laws/Step.lean ====
section
/-! SUPPORT. What one step and one host command can do, said once. -/

namespace Sys2Proof.Machine

variable {s : State}

/-- A step that is not Running changes nothing but the diagnostic output (60_exceptions.md R257). -/
theorem step_of_not_running (h : s.run ≠ .running) : step s = .next (s.raise .none) := by
  unfold step stepCycle
  cases hr : s.run with
  | running => exact absurd hr h
  | paused => rfl
  | halted => rfl

/-- A step while awaiting a key makes the completion test only (40_step_cycle.md R116). -/
theorem step_of_awaiting {x : RegSel} (hr : s.run = .running) (ha : s.await = some x) :
    step s = .next ((s.raise .none).awaitStep x) := by
  simp only [step, stepCycle, hr, ha]

/-- A step that is Running and not awaiting fetches. -/
theorem step_of_ready (hr : s.run = .running) (ha : s.await = none) : step s = fetchAndExec s := by
  simp only [step, stepCycle, hr, ha]

/-- Everything a step can do (40_step_cycle.md R110). -/
theorem step_cases (s : State) :
    (s.run ≠ .running ∧ step s = .next (s.raise .none)) ∨
    (s.run = .running ∧ ∃ x, s.await = some x ∧ step s = .next ((s.raise .none).awaitStep x)) ∨
    (s.run = .running ∧ s.await = none ∧ ∃ a, s.fetchError = some a ∧ step s = .next (s.raise (.addressError a))) ∨
    (s.run = .running ∧ s.await = none ∧ s.fetchError = none ∧
      ∃ i, decodeWord s.fetchWord = .ok i ∧ step s = exec i s.fetched) ∨
    (s.run = .running ∧ s.await = none ∧ s.fetchError = none ∧
      ∃ e, decodeWord s.fetchWord = .error e ∧ step s = .next (s.fetched.raise (.unknownOpcode s.fetchWord))) := by
  by_cases hr : s.run = .running
  · right
    cases ha : s.await with
    | some x => exact .inl ⟨hr, x, rfl, step_of_awaiting hr ha⟩
    | none =>
      right
      cases hf : s.fetchError with
      | some a => exact .inl ⟨hr, rfl, a, rfl, by rw [step_of_ready hr ha, fetchAndExec, hf]⟩
      | none =>
        right
        cases hd : decodeWord s.fetchWord with
        | ok i => exact .inl ⟨hr, rfl, rfl, i, rfl, by simp only [step_of_ready hr ha, fetchAndExec, hf, execWord, hd]⟩
        | error e => exact .inr ⟨hr, rfl, rfl, e, rfl, by simp only [step_of_ready hr ha, fetchAndExec, hf, execWord, hd]⟩
  · exact .inl ⟨hr, step_of_not_running hr⟩

/-- What the completion test can do (45_timers_keys.md R226): nothing while no edge is recorded, else the least edged key goes to
VX, the sub-state is left and PC advances. -/
theorem State.awaitStep_cases (s : State) (x : RegSel) :
    (leastEdge s.kedge = none ∧ s.awaitStep x = s) ∨
    (∃ k, leastEdge s.kedge = some k ∧
      s.awaitStep x = ((s.setReg x (k.setWidth 8)).leaveAwait).setPC (s.PC + 2)) := by
  cases h : leastEdge s.kedge with
  | none => exact .inl ⟨rfl, by simp only [State.awaitStep, h]⟩
  | some k => exact .inr ⟨k, rfl, by simp only [State.awaitStep, h]⟩

/-- What a load can do (70_reset_and_hazards.md R282 to R286). -/
theorem load_cases (src : ByteSource) (s : State) :
    (src = none ∧ load src s = .next (s, .error .ioFailure)) ∨
    (∃ bytes, src = some bytes ∧ maxImage < bytes.length ∧ load src s = .next (s, .error .imageTooLarge)) ∨
    (∃ bytes, src = some bytes ∧ bytes.length ≤ maxImage ∧ s.run = .halted ∧ load src s = .refused .loadInHalted) ∨
    (∃ bytes, src = some bytes ∧ bytes.length ≤ maxImage ∧ s.run ≠ .halted ∧
      load src s = .next (s.loadImage bytes, .ok)) := by
  cases src with
  | none => exact .inl ⟨rfl, rfl⟩
  | some bytes =>
    right
    by_cases hl : maxImage < bytes.length
    · exact .inl ⟨bytes, rfl, hl, by simp only [load, if_pos hl]⟩
    · right
      have hl' := Nat.le_of_not_lt hl
      cases hr : s.run with
      | halted => exact .inl ⟨bytes, rfl, hl', rfl, by simp only [load, if_neg hl, hr]⟩
      | running => exact .inr ⟨bytes, rfl, hl', by simp, by simp only [load, if_neg hl, hr]⟩
      | paused => exact .inr ⟨bytes, rfl, hl', by simp, by simp only [load, if_neg hl, hr]⟩

/-! ## Commands and what they return -/

@[simp] theorem thenNext_next {α β : Type} (a : α) (f : α → Host.Outcome β Fault Refusal) : thenNext (.next a) f = f a := rfl

/-- `thenNext` answers a next state exactly where both parts do. -/
theorem thenNext_eq_next {α β : Type} {o : Host.Outcome α Fault Refusal} {f : α → Host.Outcome β Fault Refusal} {b : β} :
    thenNext o f = .next b ↔ ∃ a, o = .next a ∧ f a = .next b := by
  cases o <;> simp [thenNext]

/-- `step()` for the host, where the step answers a next state. -/
theorem runCommand_step {t : State} (h : step s = .next t) : runCommand .step s = .next (t.withoutDiag, .step t.diag) := by
  simp only [runCommand, stepCommand, h, thenNext_next]

/-- Everything a command that answers a next state can do. -/
theorem runCommand_cases {c : Command} {s t : State} {r : CommandResult} (h : runCommand c s = .next (t, r)) :
    (∃ u, c = .step ∧ step s = .next u ∧ t = u.withoutDiag ∧ r = .step u.diag) ∨
    (∃ src u q, c = .load src ∧ load src s = .next (u, q) ∧ t = u.withoutDiag ∧ r = .load q) ∨
    (r = .unit ∧ ((∃ k p, c = .setKey k p ∧ t = (setKey k p s).withoutDiag) ∨ (c = .tickTimers ∧ t = (tickTimers s).withoutDiag) ∨
      (c = .requestPause ∧ t = (requestPause s).withoutDiag) ∨ (c = .requestResume ∧ t = (requestResume s).withoutDiag) ∨
      (c = .requestQuit ∧ t = (requestQuit s).withoutDiag))) := by
  cases c with
  | load src =>
    obtain ⟨⟨u, q⟩, hl, e⟩ := thenNext_eq_next.1 h
    cases e
    exact .inr (.inl ⟨src, u, q, rfl, hl, rfl, rfl⟩)
  | step =>
    obtain ⟨q, hs, e⟩ := thenNext_eq_next.1 h
    obtain ⟨u, hu, e'⟩ := thenNext_eq_next.1 hs
    cases e'
    cases e
    exact .inl ⟨u, rfl, hu, rfl, rfl⟩
  | setKey k p =>
    cases h
    exact .inr (.inr ⟨rfl, .inl ⟨k, p, rfl, rfl⟩⟩)
  | tickTimers =>
    cases h
    exact .inr (.inr ⟨rfl, .inr (.inl ⟨rfl, rfl⟩)⟩)
  | requestPause =>
    cases h
    exact .inr (.inr ⟨rfl, .inr (.inr (.inl ⟨rfl, rfl⟩))⟩)
  | requestResume =>
    cases h
    exact .inr (.inr ⟨rfl, .inr (.inr (.inr (.inl ⟨rfl, rfl⟩)))⟩)
  | requestQuit =>
    cases h
    exact .inr (.inr ⟨rfl, .inr (.inr (.inr (.inr ⟨rfl, rfl⟩)))⟩)

/-! ## Sequences of commands -/

/-- One command that answers a next state, then the rest. -/
theorem runCommands_cons_next {c : Command} {cs : List Command} {s t : State} {r : CommandResult}
    (h : runCommand c s = .next (t, r)) :
    runCommands (c :: cs) s = thenNext (runCommands cs t) fun rs => .next (rs.1, r :: rs.2) := by
  simp only [runCommands, h, thenNext_next]

/-- A sequence that answers a next state, then another that does. -/
theorem runCommands_append_next {cs ds : List Command} {s t u : State} {rs qs : List CommandResult}
    (h : runCommands cs s = .next (t, rs)) (h' : runCommands ds t = .next (u, qs)) :
    runCommands (cs ++ ds) s = .next (u, rs ++ qs) := by
  induction cs generalizing s rs with
  | nil =>
    cases h
    exact h'
  | cons c cs ih =>
    obtain ⟨⟨v, r⟩, hv, e⟩ := thenNext_eq_next.1 h
    obtain ⟨⟨w, ps⟩, hw, e'⟩ := thenNext_eq_next.1 e
    cases e'
    rw [List.cons_append, runCommands_cons_next hv, ih hw]
    rfl

/-- A command that changes nothing and returns `r`, any number of times. -/
theorem runCommands_replicate_fixed {c : Command} {s : State} {r : CommandResult} (h : runCommand c s = .next (s, r)) (n : Nat) :
    runCommands (List.replicate n c) s = .next (s, List.replicate n r) := by
  induction n with
  | zero => rfl
  | succ n ih =>
    rw [List.replicate_succ, runCommands_cons_next h, ih]
    rfl

/-- The state after a sequence is the state of its run. -/
theorem applyCommands_eq_next {cs : List Command} {s t : State} :
    applyCommands cs s = .next t ↔ ∃ rs, runCommands cs s = .next (t, rs) := by
  simp only [applyCommands, thenNext_eq_next]
  constructor
  · rintro ⟨⟨u, rs⟩, h, e⟩
    cases e
    exact ⟨rs, h⟩
  · rintro ⟨rs, h⟩
    exact ⟨(t, rs), h, rfl⟩

/-- An invariant that every command keeps is kept by every sequence. -/
theorem runCommands_invariant {P : State → Prop} (keep : ∀ c s t r, P s → runCommand c s = .next (t, r) → P t)
    {cs : List Command} {s t : State} {rs : List CommandResult} (hs : P s) (h : runCommands cs s = .next (t, rs)) : P t := by
  induction cs generalizing s rs with
  | nil =>
    cases h
    exact hs
  | cons c cs ih =>
    obtain ⟨⟨v, r⟩, hv, e⟩ := thenNext_eq_next.1 h
    obtain ⟨⟨w, ps⟩, hw, e'⟩ := thenNext_eq_next.1 e
    cases e'
    exact ih (keep c s v r hs hv) hw

/-- The same of the states alone. -/
theorem applyCommands_invariant {P : State → Prop} (keep : ∀ c s t r, P s → runCommand c s = .next (t, r) → P t)
    {cs : List Command} {s t : State} (hs : P s) (h : applyCommands cs s = .next t) : P t :=
  let ⟨_, h'⟩ := applyCommands_eq_next.1 h
  runCommands_invariant keep hs h'

/-- The decrement of a timer saturates at 0 (60_exceptions.md R260). -/
theorem countDown_toNat (t : Byte) : (countDown t).toNat = t.toNat - 1 := by
  unfold countDown
  split
  · rename_i h
    simp [h]
  · rename_i h
    have hp : t.toNat ≠ 0 := fun e => h (BitVec.eq_of_toNat_eq (by simpa using e))
    have := t.isLt
    have one : (1 : Byte).toNat = 1 := rfl
    simp only [BitVec.toNat_sub, one]
    omega

end Sys2Proof.Machine
end

