-- ==== Sys2Proof/Tests/Slice0.lean ====
section
/-! SUPPORT. Tests whose expected results are the spec's own vectors (95_test_vectors.md, numbered S and T) and the encodings of
30_encoding.md R93 and R95; then a witness for the hypotheses of every obligation that has some. -/

namespace Sys2Proof.Tests

open Sys2Proof Sys2Proof.Machine

/-! ## Helpers -/

/-- The after-load state of the vectors at the reference configuration: power-on, Running. -/
def loaded : State := { State.reset with run := .running }

/-- `loaded` with some V registers given. -/
def withRegs (rs : List (RegSel × Byte)) : State := rs.foldl (fun s r => s.setReg r.1 r.2) loaded

/-- `s` with bytes of memory from `a` on. -/
def withBytes (s : State) (a : Nat) (vs : List Byte) : State := s.storeBytes a vs

/-- A machine with STACK_DEPTH 12 and `n` calls open. -/
def deep12 (n : Fin 17) : State :=
  { State.powerOn { stackExtra := 0, font := .replicate 80 0 } with run := .running, SP := n }

/-- The word `w` runs as the next instruction of `s` and leaves a state of which `p` holds. -/
def runs (w : Nat) (s : State) (p : State → Bool) : Bool :=
  match step (s.withFetchWord 16 w) with
  | .next t => p t
  | .fault _ => false
  | .refused _ => false

/-- The outcome is a next state of which `p` holds. -/
def gives (o : Host.Outcome State Fault Refusal) (p : State → Bool) : Bool :=
  match o with
  | .next t => p t
  | .fault _ => false
  | .refused _ => false

/-! ## Well-formedness -/

theorem test_sys_at_cls_word_is_ill_formed : (Instr.sys 0x0E0).wellFormed = false := by decide
theorem test_sys_at_ret_word_is_ill_formed : (Instr.sys 0x0EE).wellFormed = false := by decide
theorem test_sys_beside_cls_word_is_well_formed : (Instr.sys 0x0E1).wellFormed = true := by decide
theorem test_ill_formed_sys_has_the_word_of_cls : decodeWord (encode (.sys 0x0E0)) = .ok .cls := by decide

/-! ## Decoding (words written out from 30_encoding.md R93, R95) -/

theorem test_decode_cls : decodeWord 0x00E0 = .ok .cls := by decide
theorem test_decode_ret : decodeWord 0x00EE = .ok .ret := by decide
theorem test_decode_sys : decodeWord 0x0123 = .ok (.sys 0x123) := by decide
theorem test_decode_sys_e1 : decodeWord 0x00E1 = .ok (.sys 0x0E1) := by decide
theorem test_decode_jp : decodeWord 0x1234 = .ok (.jp 0x234) := by decide
theorem test_decode_call : decodeWord 0x2300 = .ok (.call 0x300) := by decide
theorem test_decode_se_imm : decodeWord 0x3342 = .ok (.seImm 3 0x42) := by decide
theorem test_decode_sne_imm : decodeWord 0x4342 = .ok (.sneImm 3 0x42) := by decide
theorem test_decode_se_reg : decodeWord 0x5120 = .ok (.seReg 1 2) := by decide
theorem test_decode_ld_imm : decodeWord 0x6A3C = .ok (.ldImm 0xA 0x3C) := by decide
theorem test_decode_add_imm : decodeWord 0x7001 = .ok (.addImm 0 1) := by decide
theorem test_decode_ld_reg : decodeWord 0x8120 = .ok (.ldReg 1 2) := by decide
theorem test_decode_or : decodeWord 0x8341 = .ok (.or 3 4) := by decide
theorem test_decode_and : decodeWord 0x8562 = .ok (.and 5 6) := by decide
theorem test_decode_xor : decodeWord 0x8783 = .ok (.xor 7 8) := by decide
theorem test_decode_add_reg : decodeWord 0x89A4 = .ok (.addReg 9 0xA) := by decide
theorem test_decode_sub : decodeWord 0x8BC5 = .ok (.sub 0xB 0xC) := by decide
theorem test_decode_shr : decodeWord 0x8DE6 = .ok (.shr 0xD 0xE) := by decide
theorem test_decode_subn : decodeWord 0x8F07 = .ok (.subn 0xF 0) := by decide
theorem test_decode_shl : decodeWord 0x812E = .ok (.shl 1 2) := by decide
theorem test_decode_sne_reg : decodeWord 0x9120 = .ok (.sneReg 1 2) := by decide
theorem test_decode_ld_i : decodeWord 0xA2F0 = .ok (.ldI 0x2F0) := by decide
theorem test_decode_jp_v0 : decodeWord 0xB300 = .ok (.jpV0 0x300) := by decide
theorem test_decode_rnd : decodeWord 0xC30F = .ok (.rnd 3 0x0F) := by decide
theorem test_decode_drw : decodeWord 0xD015 = .ok (.drw 0 1 5) := by decide
theorem test_decode_skp : decodeWord 0xE09E = .ok (.skp 0) := by decide
theorem test_decode_sknp : decodeWord 0xE3A1 = .ok (.sknp 3) := by decide
theorem test_decode_ld_vx_dt : decodeWord 0xF507 = .ok (.ldVxDt 5) := by decide
theorem test_decode_ld_vx_k : decodeWord 0xF30A = .ok (.ldVxK 3) := by decide
theorem test_decode_ld_dt_vx : decodeWord 0xF115 = .ok (.ldDtVx 1) := by decide
theorem test_decode_ld_st_vx : decodeWord 0xF218 = .ok (.ldStVx 2) := by decide
theorem test_decode_add_i_vx : decodeWord 0xF21E = .ok (.addIVx 2) := by decide
theorem test_decode_ld_f_vx : decodeWord 0xFA29 = .ok (.ldFVx 0xA) := by decide
theorem test_decode_ld_b_vx : decodeWord 0xFB33 = .ok (.ldBVx 0xB) := by decide
theorem test_decode_ld_i_vx : decodeWord 0xF255 = .ok (.ldIVx 2) := by decide
theorem test_decode_ld_vx_i : decodeWord 0xFF65 = .ok (.ldVxI 0xF) := by decide

/-- T6 to T12. -/
theorem test_decode_unknown_words :
    [0x5121, 0x8008, 0x800F, 0x912F, 0xE000, 0xF0FF, 0xF00B].all
      (fun w => decodeWord w == .error (.unknownOpcode w)) = true := by decide

theorem test_decode_is_big_endian : decode [0xD0, 0x15, 0x77] = .ok (.drw 0 1 5, [0x77]) := by decide
theorem test_decode_refuses_a_lone_byte : decode [0xD0] = .error (.truncated 1) := by decide
theorem test_decode_table_word : decodeTableWord 16 0xF265 = some (.ldVxI 2) := by decide
theorem test_decode_table_word_refuses : decodeTableWord 16 0x5121 = none := by decide

/-! ## The step cycle -/

/-- S3. -/
theorem test_first_instruction_after_reset : runs 0x6005 State.reset (fun t => t.reg 0 == 5 && t.PC == 0x202) = true := by decide

/-- T1: an odd PC fetches normally. -/
theorem test_fetch_at_odd_pc :
    gives (step { withBytes loaded 0x201 [0x60, 0x07] with PC := 0x201 }) (fun t => t.reg 0 == 7 && t.PC == 0x203) = true := by
  decide

/-- T2. -/
theorem test_fetch_of_the_last_word :
    gives (step { withBytes loaded 0xFFE [0x63, 0x2A] with PC := 0xFFE }) (fun t => t.reg 3 == 0x2A && t.PC == 0x1000) = true := by
  decide

/-- T3 to T5. -/
theorem test_fetch_out_of_range :
    [(0x1000, 0x1000), (0x0FFF, 0x1000), (0xFFFF, 0xFFFF)].all (fun (p : Word × Nat) =>
      gives (step { loaded with PC := p.1 }) (fun t => t.PC == p.1 && t.diag == .addressError p.2)) = true := by decide

/-- T6. -/
theorem test_unknown_opcode :
    runs 0x5121 loaded (fun t => t.PC == 0x202 && t.diag == .unknownOpcode 0x5121) = true := by decide

/-- T13. -/
theorem test_paused_step_does_not_execute :
    gives (step { withBytes loaded 0x200 [0x60, 0x05] with run := .paused }) (fun t => t.reg 0 == 0 && t.PC == 0x200) = true := by
  decide

/-! ## Instructions -/

/-- T20. -/
theorem test_sys_is_no_op :
    runs 0x0123 loaded
      (fun t => t.PC == 0x202 && t.diag == .none && t.reg 1 == 0) = true := by
  decide

/-- T22. -/
theorem test_sys_beside_cls :
    runs 0x00E1 { loaded with disp := loaded.disp.toggle 3 4 }
      (fun t => t.PC == 0x202 && Display.pixel t.disp 3 4) = true := by
  decide

/-- T23. -/
theorem test_ret :
    runs 0x00EE { loaded with PC := 0x300, SP := 1, stack := loaded.stack.set 0 0x0202 }
      (fun t => t.PC == 0x202 && t.SP == 0) = true := by
  decide

/-- T24. -/
theorem test_ret_underflow :
    runs 0x00EE loaded
      (fun t => t.PC == 0x202 && t.SP == 0 && t.diag == .stackUnderflow 0x200) = true := by
  decide

/-- T25. -/
theorem test_jp :
    runs 0x1234 loaded
      (fun t => t.PC == 0x234) = true := by
  decide

/-- T27. -/
theorem test_jp_top :
    runs 0x1FFF loaded
      (fun t => t.PC == 0xFFF) = true := by
  decide

/-- T28. -/
theorem test_call :
    runs 0x2300 loaded
      (fun t => t.PC == 0x300 && t.SP == 1 && t.stack[0] == 0x202) = true := by
  decide

/-- T29 at D = 12. -/
theorem test_call_fills_depth_12 :
    runs 0x2300 (deep12 11)
      (fun t => t.SP == 12 && t.stack[11] == 0x202 && t.PC == 0x300) = true := by
  decide

/-- T30 at D = 12. -/
theorem test_call_overflows_depth_12 :
    runs 0x2300 (deep12 12)
      (fun t => t.SP == 12 && t.stack[12] == 0 && t.PC == 0x202 && t.diag == .stackOverflow 0x200) = true := by
  decide

/-- T31. -/
theorem test_se_imm :
    runs 0x3342 (withRegs [(3, 0x42)])
      (fun t => t.PC == 0x204) = true := by
  decide

/-- T32. -/
theorem test_se_imm_not :
    runs 0x3342 (withRegs [(3, 0x41)])
      (fun t => t.PC == 0x202) = true := by
  decide

/-- T33. -/
theorem test_sne_imm_not :
    runs 0x4342 (withRegs [(3, 0x42)])
      (fun t => t.PC == 0x202) = true := by
  decide

/-- T34. -/
theorem test_sne_imm :
    runs 0x4342 loaded
      (fun t => t.PC == 0x204) = true := by
  decide

/-- T35. -/
theorem test_se_reg :
    runs 0x5120 (withRegs [(1, 7), (2, 7)])
      (fun t => t.PC == 0x204) = true := by
  decide

/-- T36. -/
theorem test_se_reg_not :
    runs 0x5120 (withRegs [(1, 7), (2, 8)])
      (fun t => t.PC == 0x202) = true := by
  decide

/-- T38. -/
theorem test_sne_reg :
    runs 0x9120 (withRegs [(1, 7), (2, 8)])
      (fun t => t.PC == 0x204) = true := by
  decide

/-- T39. -/
theorem test_sne_reg_not :
    runs 0x9120 (withRegs [(1, 7), (2, 7)])
      (fun t => t.PC == 0x202) = true := by
  decide

/-- T41. -/
theorem test_jp_v0 :
    runs 0xB300 (withRegs [(0, 0x10), (3, 0x44)])
      (fun t => t.PC == 0x310) = true := by
  decide

/-- T42. -/
theorem test_jp_v0_not_masked :
    runs 0xBFFF (withRegs [(0, 0xFF)])
      (fun t => t.PC == 0x10FE) = true := by
  decide

/-- T50. -/
theorem test_ld_imm :
    runs 0x6A3C (withRegs [(0xF, 0x55)])
      (fun t => t.reg 0xA == 0x3C && t.reg 0xF == 0x55) = true := by
  decide

/-- T51. -/
theorem test_ld_imm_vf :
    runs 0x6F01 (withRegs [(0xF, 0x55)])
      (fun t => t.reg 0xF == 0x01) = true := by
  decide

/-- S4, T52. -/
theorem test_add_imm_wraps :
    runs 0x7001 (withRegs [(0, 0xFF), (0xF, 0x55)])
      (fun t => t.reg 0 == 0 && t.reg 0xF == 0x55 && t.PC == 0x202) = true := by
  decide

/-- T53. -/
theorem test_add_imm_vf :
    runs 0x7F01 (withRegs [(0xF, 0xFF)])
      (fun t => t.reg 0xF == 0) = true := by
  decide

/-- T54. -/
theorem test_ld_reg :
    runs 0x8010 (withRegs [(1, 0x3C)])
      (fun t => t.reg 0 == 0x3C && t.reg 1 == 0x3C) = true := by
  decide

/-- T55. -/
theorem test_or :
    runs 0x8011 (withRegs [(0, 0x0F), (1, 0xF0), (0xF, 0x55)])
      (fun t => t.reg 0 == 0xFF && t.reg 0xF == 0x55) = true := by
  decide

/-- T56. -/
theorem test_and :
    runs 0x8012 (withRegs [(0, 0x3C), (1, 0x0F), (0xF, 0x55)])
      (fun t => t.reg 0 == 0x0C && t.reg 0xF == 0x55) = true := by
  decide

/-- T57. -/
theorem test_xor :
    runs 0x8013 (withRegs [(0, 0xFF), (1, 0x0F), (0xF, 0x55)])
      (fun t => t.reg 0 == 0xF0 && t.reg 0xF == 0x55) = true := by
  decide

/-- T59. -/
theorem test_add_reg_carry :
    runs 0x8014 (withRegs [(0, 0xF0), (1, 0x20)])
      (fun t => t.reg 0 == 0x10 && t.reg 0xF == 1) = true := by
  decide

/-- T63. -/
theorem test_add_reg_vf :
    runs 0x8F14 (withRegs [(0xF, 0xFF), (1, 1)])
      (fun t => t.reg 0xF == 1) = true := by
  decide

/-- T66. -/
theorem test_sub_borrow :
    runs 0x8015 (withRegs [(0, 5), (1, 7), (0xF, 0x55)])
      (fun t => t.reg 0 == 0xFE && t.reg 0xF == 0) = true := by
  decide

/-- T67. -/
theorem test_sub_equal :
    runs 0x8015 (withRegs [(0, 5), (1, 5)])
      (fun t => t.reg 0 == 0 && t.reg 0xF == 1) = true := by
  decide

/-- T71. -/
theorem test_shr_ignores_vy :
    runs 0x8016 (withRegs [(0, 0x80), (1, 0xFF), (0xF, 0x55)])
      (fun t => t.reg 0 == 0x40 && t.reg 0xF == 0) = true := by
  decide

/-- T72. -/
theorem test_shr_vf :
    runs 0x8F06 (withRegs [(0xF, 3)])
      (fun t => t.reg 0xF == 1) = true := by
  decide

/-- T73. -/
theorem test_subn :
    runs 0x8017 (withRegs [(0, 5), (1, 7)])
      (fun t => t.reg 0 == 2 && t.reg 0xF == 1) = true := by
  decide

/-- T74. -/
theorem test_subn_borrow :
    runs 0x8017 (withRegs [(0, 7), (1, 5), (0xF, 0x55)])
      (fun t => t.reg 0 == 0xFE && t.reg 0xF == 0) = true := by
  decide

/-- T76. -/
theorem test_shl :
    runs 0x801E (withRegs [(0, 0x81)])
      (fun t => t.reg 0 == 2 && t.reg 0xF == 1) = true := by
  decide

/-- T77. -/
theorem test_shl_ignores_vy :
    runs 0x801E (withRegs [(0, 0x40), (1, 0xFF), (0xF, 0x55)])
      (fun t => t.reg 0 == 0x80 && t.reg 0xF == 0) = true := by
  decide

/-- T90. -/
theorem test_ld_i :
    runs 0xA2F0 loaded
      (fun t => t.I == 0x2F0) = true := by
  decide

/-- T92. -/
theorem test_add_i_vx_past_memory :
    runs 0xF01E { withRegs [(0, 1), (0xF, 0x55)] with I := 0x0FFF }
      (fun t => t.I == 0x1000 && t.reg 0xF == 0x55) = true := by
  decide

/-- T93. -/
theorem test_add_i_vx_wraps :
    runs 0xF01E { withRegs [(0, 1)] with I := 0xFFFF }
      (fun t => t.I == 0) = true := by
  decide

/-- T95. -/
theorem test_ld_f_vx_masks_digit :
    runs 0xF029 (withRegs [(0, 0x1A)])
      (fun t => t.I == 0x32) = true := by
  decide

/-- T100. -/
theorem test_ld_b_vx_at_the_end :
    runs 0xF033 { withRegs [(0, 0xFF)] with I := 0xFFD }
      (fun t => t.readByte 0xFFD == 2 && t.readByte 0xFFE == 5 && t.readByte 0xFFF == 5) = true := by
  decide

/-- T101. -/
theorem test_ld_b_vx_past_the_end :
    runs 0xF033 { withRegs [(0, 0xFF)] with I := 0xFFE }
      (fun t => t.readByte 0xFFE == 0 && t.diag == .addressError 0x1000 && t.PC == 0x202) = true := by
  decide

/-- T102. -/
theorem test_ld_i_vx :
    runs 0xF255 { withRegs [(0, 1), (1, 2), (2, 3), (3, 4)] with I := 0x400 }
      (fun t => t.readByte 0x400 == 1 && t.readByte 0x402 == 3 && t.readByte 0x403 == 0 && t.I == 0x400) = true := by
  decide

/-- T105. -/
theorem test_ld_i_vx_past_the_end :
    runs 0xFF55 { withRegs [(0, 1)] with I := 0xFF1 }
      (fun t => t.readByte 0xFF1 == 0 && t.diag == .addressError 0x1000) = true := by
  decide

/-- T106. -/
theorem test_ld_vx_i :
    runs 0xF265 { withBytes (withRegs [(3, 0x99)]) 0x400 [0x0A, 0x0B, 0x0C, 0x0D] with I := 0x400 }
      (fun t => t.reg 0 == 0x0A && t.reg 2 == 0x0C && t.reg 3 == 0x99 && t.I == 0x400) = true := by
  decide

/-- T108. -/
theorem test_ld_vx_i_past_the_end :
    runs 0xF065 { withRegs [(0, 7)] with I := 0x1000 }
      (fun t => t.reg 0 == 7 && t.diag == .addressError 0x1000) = true := by
  decide

/-- T120. -/
theorem test_cls :
    runs 0x00E0 { withRegs [(0xF, 0x55)] with disp := loaded.disp.toggle 31 63 }
      (fun t => !Display.pixel t.disp 31 63 && t.reg 0xF == 0x55) = true := by
  decide

/-- T124. -/
theorem test_drw_clips_at_the_right :
    runs 0xD011 { withBytes (withRegs [(0, 0x3C)]) 0x300 [0xFF] with I := 0x300 }
      (fun t => Display.pixel t.disp 0 63 && !Display.pixel t.disp 0 59 && !Display.pixel t.disp 0 0 && t.reg 0xF == 0) = true := by
  decide

/-- T129. -/
theorem test_drw_collides :
    runs 0xD011 { withBytes loaded 0x300 [0xC0] with I := 0x300, disp := loaded.disp.toggle 0 0 }
      (fun t => !Display.pixel t.disp 0 0 && Display.pixel t.disp 0 1 && t.reg 0xF == 1) = true := by
  decide

/-- T140. -/
theorem test_ld_vx_dt :
    runs 0xF507 { loaded with DT := 0x2A }
      (fun t => t.reg 5 == 0x2A && t.DT == 0x2A) = true := by
  decide

/-- T141. -/
theorem test_ld_dt_vx :
    runs 0xF115 (withRegs [(1, 0x3C)])
      (fun t => t.DT == 0x3C && t.ST == 0) = true := by
  decide

/-- T142. -/
theorem test_ld_st_vx :
    runs 0xF218 (withRegs [(2, 5)])
      (fun t => t.ST == 5 && t.DT == 0 && t.soundActive) = true := by
  decide

/-- T148. -/
theorem test_skp_masks_key :
    runs 0xE09E { withRegs [(0, 0x17)] with key := loaded.key.set 7 true }
      (fun t => t.PC == 0x204) = true := by
  decide

/-- T147. -/
theorem test_skp_released :
    runs 0xE09E (withRegs [(0, 7)])
      (fun t => t.PC == 0x202) = true := by
  decide

/-- T149. -/
theorem test_sknp_pressed :
    runs 0xE0A1 { withRegs [(0, 7)] with key := loaded.key.set 7 true }
      (fun t => t.PC == 0x202) = true := by
  decide

/-- T150. -/
theorem test_sknp_released :
    runs 0xE0A1 (withRegs [(0, 7)])
      (fun t => t.PC == 0x204) = true := by
  decide

/-- T151. -/
theorem test_ld_vx_k_enters :
    runs 0xF30A { loaded with PC := 0x240, kedge := .replicate 16 true }
      (fun t => t.await == some 3 && t.PC == 0x240 && t.kedge == .replicate 16 false) = true := by
  decide

/-- T80: with NN = 0 the result is 0 whatever the draw. -/
theorem test_rnd_mask_zero : runs 0xC300 loaded (fun t => t.reg 3 == 0 && t.PC == 0x202) = true := by
  have e : step (loaded.withFetchWord 16 0xC300) = exec (.rnd 3 0) (loaded.withFetchWord 16 0xC300).fetched := rfl
  have z : (loaded.withFetchWord 16 0xC300).fetched.drawn &&& 0 = 0 := BitVec.and_zero
  simp only [runs, e, exec, execRnd, z]
  rfl

/-! ## Awaiting a key and host commands -/

/-- The machine of T151 after its step. -/
def waiting : State := { withBytes loaded 0x240 [0xF3, 0x0A] with PC := 0x240, await := some 3 }

/-- T152. -/
theorem test_await_without_edge : gives (step waiting) (fun t => t.await == some 3 && t.PC == 0x240) = true := by decide

/-- T156. -/
theorem test_await_takes_the_least_key :
    gives (step (setKey 4 true (setKey 0xC true waiting))) (fun t => t.reg 3 == 4 && t.PC == 0x242 && t.await == none) = true := by
  decide

/-- T154: a key already held is no edge. -/
theorem test_held_key_is_no_edge :
    gives (step (setKey 2 true { waiting with key := waiting.key.set 2 true })) (fun t => t.await == some 3) = true := by decide

/-- T157. -/
theorem test_release_keeps_the_edge :
    gives (step (setKey 5 false (setKey 5 true waiting))) (fun t => t.reg 3 == 5) = true := by decide

/-- T143, T144. -/
theorem test_tick_saturates :
    (tickTimers { loaded with ST := 1 }).ST = 0 ∧ (tickTimers { loaded with ST := 1 }).soundActive = false ∧
      (tickTimers loaded).DT = 0 := by
  decide

/-- T145. -/
theorem test_tick_is_frozen_in_paused : (tickTimers { State.reset with DT := 5, ST := 3 }).DT = 5 := by decide

/-- T176. -/
theorem test_halted_ignores_resume : (requestResume (requestQuit loaded)).run = .halted := by decide

/-- T177, in part. -/
theorem test_load_keeps_the_display :
    gives (applyCommand (.load (some [0x12, 0x00])) { withBytes loaded 0xF00 [0xBB] with SP := 2, DT := 4, disp := loaded.disp.toggle 3 3 })
      (fun t => t.readByte 0x200 == 0x12 && t.readByte 0xF00 == 0xBB && t.SP == 0 && t.DT == 0 && t.PC == 0x200 &&
        Display.pixel t.disp 3 3) = true := by
  decide

/-- T181. -/
theorem test_load_io_failure : load none loaded = .next (loaded, .error .ioFailure) := rfl

/-- T24: the host gets StackUnderflow(a) beside a state that holds no diagnostic. -/
theorem test_step_command_returns_the_diagnostic :
    (match runCommand .step (loaded.withFetchWord 16 0x00EE) with
      | .next (t, r) => r == .step (.stackUnderflow 0x200) && t.PC == 0x202 && t.diag == .none
      | .fault _ => false
      | .refused _ => false) = true := by
  decide

/-- T3: every further step returns the same AddressError. -/
theorem test_fetch_error_is_returned_again :
    (match runCommands [.step, .tickTimers, .step] { loaded with PC := 0x1000 } with
      | .next (t, rs) => rs == [.step (.addressError 0x1000), .unit, .step (.addressError 0x1000)] && t.PC == 0x1000
      | .fault _ => false
      | .refused _ => false) = true := by
  decide

/-! ## Witnesses: states and operands that meet an obligation's hypotheses -/

/-- DecodeOfEncodeIsIdentity, at both ends of 0NNN. -/
theorem witness_well_formed :
    (Instr.sys 0x000).wellFormed = true ∧ (Instr.sys 0xFFF).wellFormed = true ∧ (Instr.shr 0xF 0xF).wellFormed = true := by decide

/-- EncodeOfDecodeIsIdentity. -/
theorem witness_decodes : decodeWord 0x8FF6 = .ok (.shr 0xF 0xF) ∧ decodeWord 0xFFFF = .error (.unknownOpcode 0xFFFF) := by decide

/-- DecodeFailsExactlyOnUnknownWords, both clauses, at the edges of the list. -/
theorem witness_unknown_words :
    UnknownWord 0x5001 ∧ UnknownWord 0x800F ∧ UnknownWord 0x9FFF ∧ UnknownWord 0xE09F ∧ UnknownWord 0xF066 ∧
    ¬UnknownWord 0x5000 ∧ ¬UnknownWord 0x800E ∧ ¬UnknownWord 0xE0A1 ∧ ¬UnknownWord 0xFF65 ∧ ¬UnknownWord 0x0000 := by
  simp only [UnknownWord]
  refine ⟨?_, ?_, ?_, ?_, ?_, ?_, ?_, ?_, ?_, ?_⟩ <;> decide

/-- OpcodeMapDecodes (and every statement with `Encodes`): words that match, and one that takes the third clause. -/
theorem witness_opcode_map :
    (0xDFFF : Word) &&& 0xF000 = 0xD000 ∧ (0x8FF6 : Word) &&& 0xF00F = 0x8006 ∧ (0xFF65 : Word) &&& 0xF0FF = 0xF065 ∧
    (0x00E0 : Word) &&& 0xFFFF = 0x00E0 ∧
    ((0x00E1 : Word) &&& 0xF000 = 0x0000 ∧ (0x00E1 : Word) ≠ 0x00E0 ∧ (0x00E1 : Word) ≠ 0x00EE) := by
  decide

/-- A machine about to fetch `word` at the last address a fetch can start from. -/
def atTheEnd (hi lo : Byte) : State := { withBytes loaded 0xFFE [hi, lo] with PC := 0xFFE }

/-- StepRunsTheDecodedInstruction, at PC = 0x0FFE. -/
theorem witness_step_runs : ReadyToFetch (atTheEnd 0x63 0x2A) ∧ decodeWord (opcodeAt (atTheEnd 0x63 0x2A)) = .ok (.ldImm 3 0x2A) := by
  unfold ReadyToFetch
  decide

/-- UnknownOpcodeIsNoOp, at PC = 0x0FFE. -/
theorem witness_unknown_opcode : ReadyToFetch (atTheEnd 0x51 0x21) ∧ UnknownWord (opcodeAt (atTheEnd 0x51 0x21)) := by
  simp only [ReadyToFetch, UnknownWord]
  decide

/-- FetchOutOfRangeMakesNoProgress, at the boundary PC = 0x0FFF. -/
theorem witness_fetch_out_of_range :
    let s : State := { loaded with PC := 0x0FFF }
    s.run = .running ∧ s.await = none ∧ 0x0FFF ≤ s.PC.toNat := by decide

/-- StepsAndTicksAreFrozenUnlessRunning. -/
theorem witness_frozen :
    State.reset.run ≠ .running ∧ (requestQuit loaded).run ≠ .running ∧ [Command.step, .tickTimers].all Command.isStepOrTick = true := by
  decide

/-- AwaitStepCompletesOnTheLeastEdge: no edge; least edge 0; least edge 15. -/
theorem witness_await :
    (waiting.run = .running ∧ waiting.await = some 3) ∧ (∀ k : Fin 16, waiting.kedge[k] = false) ∧
    ((setKey 0 true waiting).kedge[0] = true) ∧
    ((setKey 0xF true waiting).kedge[15] = true ∧ ∀ j : Fin 16, j < 15 → (setKey 0xF true waiting).kedge[j] = false) := by
  decide

/-- A legal state that awaits a key. -/
theorem waiting_legal : Legal waiting where
  memory := by decide
  depth := by decide
  absentSlots := by decide
  awaiting := fun x hx => by
    have e : x = 3 := by simpa [waiting] using hx.symm
    subst e
    decide
  edges := fun h => by simp [waiting] at h

/-- StepKeepsLegalStates, from a state that executes an instruction. -/
theorem witness_legal_step : ∃ t, Legal (atTheEnd 0x63 0x2A) ∧ step (atTheEnd 0x63 0x2A) = .next t :=
  ⟨_, ⟨by decide, by decide, by decide, fun x hx => by simp [atTheEnd, withBytes, State.storeBytes, loaded, State.reset, State.powerOn] at hx,
    by decide⟩, rfl⟩

/-- StepKeepsLegalStates and CommandSequencesKeepLegalStates, from a state that awaits a key. -/
theorem witness_legal_commands :
    Legal waiting ∧ ∃ t, applyCommands [.setKey 4 true, .step, .tickTimers, .load (some [0x12]), .requestPause] waiting = .next t :=
  ⟨waiting_legal, _, rfl⟩

/-- DiagnosticIsOnlyTheResultOfItsStep: a step that raises, as `step` leaves it and as the host sees it. -/
theorem witness_diagnostic_result :
    let s : State := { loaded with PC := 0x1000 }
    step s = .next { s with diag := .addressError 0x1000 } ∧ runCommand .step s = .next (s, .step (.addressError 0x1000)) := ⟨rfl, rfl⟩

/-- DiagnosticsRaisedOnlyAsListed: a step that raises each code. -/
theorem witness_raisers :
    (∃ t, step (loaded.withFetchWord 16 0x6A3C) = .next t ∧ t.diag.code = 0) ∧
    (∃ t, step (loaded.withFetchWord 16 0x5121) = .next t ∧ t.diag.code = 1) ∧
    (∃ t, step ((deep12 12).withFetchWord 16 0x2300) = .next t ∧ t.diag.code = 2) ∧
    (∃ t, step (loaded.withFetchWord 16 0x00EE) = .next t ∧ t.diag.code = 3) ∧
    (∃ t, step { loaded with PC := 0x0FFF } = .next t ∧ t.diag.code = 4) ∧
    (∃ t, step (({ loaded with I := 0x0FFF }).withFetchWord 16 0xD012) = .next t ∧ t.diag.code = 4) :=
  ⟨⟨_, rfl, rfl⟩, ⟨_, rfl, rfl⟩, ⟨_, rfl, rfl⟩, ⟨_, rfl, rfl⟩, ⟨_, rfl, rfl⟩, ⟨_, rfl, rfl⟩⟩

/-- DeadStackEntriesAreUnobservable: one live entry, another stack above it, and a return. -/
theorem witness_dead_stack :
    let s : State := ({ loaded with SP := 1 }).withFetchWord 16 0x00EE
    (∀ k : Fin 16, k.val < s.SP.val → (s.stack.set 1 0xBEEF)[k] = s.stack[k]) ∧ ∃ t, step s = .next t :=
  ⟨by decide, _, rfl⟩

/-- RegistersWrittenOnlyAsListed and StateItemsWrittenOnlyAsListed. -/
theorem witness_exec_next : (∃ t, exec (.addReg 0 1) loaded = .next t) ∧ (2 : RegSel) ∉ regsWritten (.addReg 0 1) :=
  ⟨⟨_, rfl⟩, by decide⟩

/-- StateItemsWrittenOnlyAsListed: instructions after which I, the stack, the display, DT, ST, the sub-state, memory and the draws
differ. -/
theorem witness_state_items :
    gives (exec (.ldI 5) loaded) (fun t => t.I != loaded.I) = true ∧
    gives (exec (.call 5) loaded) (fun t => t.stack != loaded.stack && t.SP != loaded.SP) = true ∧
    gives (exec (.drw 0 0 1) loaded) (fun t => Display.pixel t.disp 0 0 != Display.pixel loaded.disp 0 0) = true ∧
    gives (exec (.ldDtVx 0) (withRegs [(0, 1)])) (fun t => t.DT != loaded.DT) = true ∧
    gives (exec (.ldStVx 0) (withRegs [(0, 1)])) (fun t => t.ST != loaded.ST) = true ∧
    gives (exec (.ldVxK 0) loaded) (fun t => t.await != loaded.await) = true ∧
    gives (exec (.ldIVx 0) loaded) (fun t => t.readByte 0 != loaded.readByte 0) = true ∧
    gives (exec (.rnd 0 0) loaded) (fun t => t.draws != loaded.draws) = true := by
  decide

/-- ProgramCounterMovesOnlyAsListed, a 2NNN with SP below STACK_DEPTH. -/
theorem witness_pc_moves :
    ReadyToFetch (atTheEnd 0x2F 0xFF) ∧ decodeWord (opcodeAt (atTheEnd 0x2F 0xFF)) = .ok (.call 0xFFF) ∧
      (atTheEnd 0x2F 0xFF).SP.val < (atTheEnd 0x2F 0xFF).cfg.stackDepth ∧ ∃ t, step (atTheEnd 0x2F 0xFF) = .next t :=
  ⟨by unfold ReadyToFetch; decide, by decide, by decide, _, rfl⟩

/-- ProgramCounterMovesOnlyAsListed, a 2NNN on the full stack of STACK_DEPTH 12. -/
theorem witness_pc_moves_full_stack :
    let s : State := (deep12 12).withFetchWord 16 0x2300
    ReadyToFetch s ∧ decodeWord (opcodeAt s) = .ok (.call 0x300) ∧ s.SP.val = s.cfg.stackDepth ∧ ∃ t, step s = .next t :=
  ⟨by unfold ReadyToFetch; decide, by decide, by decide, _, rfl⟩

/-- ProgramCounterMovesOnlyAsListed, a 00EE at depth 12 and one on the empty stack. -/
theorem witness_pc_moves_ret :
    (let s : State := (deep12 12).withFetchWord 16 0x00EE;
      ReadyToFetch s ∧ decodeWord (opcodeAt s) = .ok .ret ∧ s.SP.val = (11 : Fin 16).val + 1 ∧ ∃ t, step s = .next t) ∧
    (let s : State := (deep12 0).withFetchWord 16 0x00EE;
      ReadyToFetch s ∧ decodeWord (opcodeAt s) = .ok .ret ∧ s.SP.val = 0 ∧ ∃ t, step s = .next t) :=
  ⟨⟨by unfold ReadyToFetch; decide, by decide, by decide, _, rfl⟩, ⟨by unfold ReadyToFetch; decide, by decide, by decide, _, rfl⟩⟩

/-- CallPushesReturnAddressOrOverflows, both clauses at STACK_DEPTH 12 and 16. -/
theorem witness_call :
    ((deep12 11).SP.val < (deep12 11).cfg.stackDepth ∧ (deep12 12).SP.val = (deep12 12).cfg.stackDepth) ∧
    (let s : State := { loaded with SP := 15 }; s.SP.val < s.cfg.stackDepth) ∧
    (let s : State := { loaded with SP := 16 }; s.SP.val = s.cfg.stackDepth) := by
  decide

/-- ReturnPopsPCOrUnderflows: depth 1, depth 16, and empty. -/
theorem witness_ret :
    (let s : State := { loaded with SP := 1 }; s.SP.val = (0 : Fin 16).val + 1) ∧
    (let s : State := { loaded with SP := 16 }; s.SP.val = (15 : Fin 16).val + 1) ∧ loaded.SP.val = 0 := by
  decide

/-- ReturnResumesAfterTheCall: the last call that fits. -/
theorem witness_call_then_return :
    let s : State := { loaded with SP := 15 }
    s.SP.val < s.cfg.stackDepth ∧ ∃ t u : State, exec (.call 0x300) s = .next t ∧ u.stack = t.stack ∧ u.SP = t.SP :=
  ⟨by decide, _, _, rfl, rfl, rfl⟩

/-- AddRegistersSetsCarry, SubtractionsSetNoBorrow and ShiftsMoveOneBitIntoFlag: X that is not F. -/
theorem witness_not_vf : (0xE : RegSel) ≠ 0xF := by decide

/-- RandomIsMaskedDraw: a bit outside NN, and a register other than VX. -/
theorem witness_random : (0x0F : Byte).getLsbD 7 = false ∧ (0 : RegSel) ≠ 3 := by decide

/-- BcdStoresThreeDigits: the last I that fits and the first that does not, with a canonical memory. -/
theorem witness_bcd :
    (let s : State := { loaded with I := 0x0FFD }; s.I.toNat + 2 < 4096 ∧ Memory.wf s.cfg s.mem = true) ∧
    (let s : State := { loaded with I := 0x0FFE }; 4096 ≤ s.I.toNat + 2) := by
  decide

/-- BlockStoreWritesRegisters and BlockLoadReadsRegisters: I + X = 0x0FFF and I + X = 0x1000. -/
theorem witness_block :
    (let s : State := { loaded with I := 0x0FF0 };
      s.I.toNat + (0xF : RegSel).toNat < 4096 ∧ Memory.wf s.cfg s.mem = true ∧ (0xF : RegSel).toNat ≤ (0xF : RegSel).toNat) ∧
    (let s : State := { loaded with I := 0x0FF1 }; 4096 ≤ s.I.toNat + (0xF : RegSel).toNat) := by
  decide

/-- A legal Running state. -/
theorem loaded_legal : Legal { loaded with I := 0x0FF0 } where
  memory := rfl
  depth := by decide
  absentSlots := by decide
  awaiting := fun x hx => by simp [loaded, State.reset, State.powerOn] at hx
  edges := fun _ => by decide

/-- BlockStoreThenLoadRestoresRegisters: up to the last byte of memory, with another register content in between. -/
theorem witness_block_round_trip :
    let s : State := { loaded with I := 0x0FF0 }
    Legal s ∧ s.I.toNat + (0xF : RegSel).toNat < 4096 ∧
      ∃ t, exec (.ldIVx 0xF) s = .next t ∧ (t.setReg 0 7).mem = t.mem ∧ (t.setReg 0 7).cfg = t.cfg ∧ (t.setReg 0 7).I = t.I :=
  ⟨loaded_legal, by decide, _, rfl, rfl, rfl, rfl⟩

/-- DrawIsXorWithCollisionFlag: no row with I past memory; the last byte of memory; one row too many; a draw that collides and
one that does not. -/
theorem witness_draw :
    (let s : State := { loaded with I := 0xFFFF }; spriteRows s 0 0 = 0) ∧
    (let s : State := { loaded with I := 0x0FFF }; s.I.toNat + spriteRows s 0 1 ≤ 4096) ∧
    (let s : State := { loaded with I := 0x0FFF }; 0 < spriteRows s 0 2 ∧ 4096 < s.I.toNat + spriteRows s 0 2) ∧
    (let s : State := { loaded with disp := loaded.disp.toggle 0 0 };
      spriteMask s 0 0 1 0 0 = true ∧ Display.pixel s.disp 0 0 = true) ∧
    (∀ y x, Display.pixel loaded.disp y x = false) := by
  refine ⟨by decide, by decide, by decide, by decide, fun y x => ?_⟩
  unfold Display.pixel
  split <;> simp [loaded, State.reset, State.powerOn]

/-- DrawTwiceRestoresTheDisplay: glyph 0 on an empty display. -/
theorem witness_draw_twice :
    (0 : RegSel) ≠ 0xF ∧ loaded.I.toNat + spriteRows loaded 0 5 ≤ 4096 ∧
    gives (exec (.drw 0 0 5) loaded) (fun t => t.reg 0xF == 0) = true ∧ spriteMask loaded 0 0 5 0 0 = true := by
  decide

/-- KeySkipsTestTheLatch: VX above 15. -/
theorem witness_key_skip : ((withRegs [(0, 0xFF)]).reg 0).toNat % 16 = (15 : Fin 16).val := by decide

/-- TicksCountTimersDown, both clauses. -/
theorem witness_ticks : loaded.run = .running ∧ State.reset.run ≠ .running := by decide

/-- HaltedIsTerminal. -/
theorem witness_halted :
    (requestQuit loaded).run = .halted ∧
      ∃ t, applyCommands [.requestResume, .setKey 1 true, .step, .load none] (requestQuit loaded) = .next t :=
  ⟨rfl, _, rfl⟩

/-- LoadInstallsTheImage: the longest image that fits, the shortest that does not, and each run state. -/
theorem witness_load :
    (List.replicate 3584 (0 : Byte)).length ≤ 3584 ∧ 3584 < (List.replicate 3585 (0 : Byte)).length ∧
    (requestQuit loaded).run = .halted ∧ loaded.run ≠ .halted ∧ Memory.wf loaded.cfg loaded.mem = true := by
  refine ⟨Nat.le_of_eq List.length_replicate, List.length_replicate ▸ by omega, rfl, by decide, rfl⟩

end Sys2Proof.Tests
end

section
/-! The step that fetches (spec 40_step_cycle.md R110 to R113), in the words the statements use: `ReadyToFetch` and `opcodeAt`. -/

namespace Sys2Proof.Machine

/-- The opcode the statements speak of is the word the model fetches (R111). -/
theorem opcodeAt_eq_fetchWord (s : State) : opcodeAt s = s.fetchWord := rfl

/-- A step that fetches runs the opcode at PC from the post-fetch state, whether or not the opcode decodes. -/
theorem step_of_readyToFetch {s : State} (h : ReadyToFetch s) : step s = execWord (opcodeAt s) s.fetched := by
  obtain ⟨hrun, hawait, hpc⟩ := h
  have hfetch : s.fetchError = none := (State.fetchError_eq_none s).mpr hpc
  rw [step_of_ready hrun hawait, fetchAndExec, hfetch, opcodeAt_eq_fetchWord]

/-- A word that decodes to an instruction runs that instruction (R113). -/
theorem execWord_of_decodeWord_ok {op : Word} {i : Instr} (h : decodeWord op = .ok i) (s : State) :
    execWord op s = exec i s := by
  rw [execWord, h]

/-- Settles O6: the step runs the fetched opcode from the post-fetch state, and that opcode decodes to `i`. -/
theorem stepRunsTheDecodedInstruction : Obligations.StepRunsTheDecodedInstruction := by
  intro s i hready hdecode
  calc step s
      _ = execWord (opcodeAt s) s.fetched := step_of_readyToFetch hready
      _ = exec i s.fetched := execWord_of_decodeWord_ok hdecode s.fetched
      _ = exec i { s with PC := s.PC + 2, diag := .none } := by rw [State.fetched]

end Sys2Proof.Machine
end

section
/-! What the decoder makes of the words of 1NNN to 4XNN and of 00EE (spec 30_encoding.md R95, R96). -/

namespace Sys2Proof

theorem decodeWord_of_family_jp {op : Word} (h : fieldFamily op = 0x1) : decodeWord op = .ok (.jp (fieldNNN op)) := by
  simp [decodeWord, h]

theorem decodeWord_of_family_call {op : Word} (h : fieldFamily op = 0x2) : decodeWord op = .ok (.call (fieldNNN op)) := by
  simp [decodeWord, h]

theorem decodeWord_of_family_seImm {op : Word} (h : fieldFamily op = 0x3) :
    decodeWord op = .ok (.seImm (fieldX op) (fieldNN op)) := by
  simp [decodeWord, h]

theorem decodeWord_of_family_sneImm {op : Word} (h : fieldFamily op = 0x4) :
    decodeWord op = .ok (.sneImm (fieldX op) (fieldNN op)) := by
  simp [decodeWord, h]

/-- The exact word of 00EE is tested within family 0 (R96). -/
theorem decodeWord_ret : decodeWord 0x00EE = .ok .ret := by decide

end Sys2Proof
end

section
/-! The shared operations in the words the statements use: `Encodes`, `SameMemory` and `PCOnly`, and a stack slot after a push. -/

namespace Sys2Proof.Machine

/-- A pattern under mask 0xF000 is settled by what the decoder does on its family. -/
theorem encodes_F000 {m : Word} {f : Nibble} {i : Word → Instr} (hm : formatFA f 0 = m)
    (hdecode : ∀ op, fieldFamily op = f → decodeWord op = .ok (i op)) : Encodes 0xF000 m i :=
  fun op hop => hdecode op ((match_F000 op f).mp (hop.trans hm.symm))

/-- Under mask 0xFFFF only the word itself matches. -/
theorem encodes_FFFF {m : Word} {i : Instr} (hdecode : decodeWord m = .ok i) : Encodes 0xFFFF m (fun _ => i) := by
  intro op hop
  have hword : op = m := BitVec.and_allOnes.symm.trans hop
  rw [hword, hdecode]

theorem sameMemory_of_eq {s t : State} (hmem : t.mem = s.mem) (hcfg : t.cfg = s.cfg) : SameMemory s t :=
  State.readByte_congr hmem hcfg

variable (s : State)

theorem pcOnly_setPC (v : Word) : PCOnly s (s.setPC v) := ⟨rfl, sameMemory_of_eq rfl rfl⟩

theorem pcOnly_skipIf (c : Bool) : PCOnly s (s.skipIf c) := pcOnly_setPC s _

/-- A push writes the slot at SP and no other slot (10_state.md R38). -/
theorem State.push_stack_getElem (v : Word) (k : Fin 16) :
    (s.push v).stack[k] = if k.val = s.SP.val then v else s.stack[k] := by
  simp [Vector.getElem_setIfInBounds, eq_comm]

theorem State.stackFull_eq_true : s.stackFull = true ↔ s.cfg.stackDepth ≤ s.SP.val := by
  simp [State.stackFull]

theorem State.stackEmpty_eq_true : s.stackEmpty = true ↔ s.SP.val = 0 := by
  simp [State.stackEmpty]

end Sys2Proof.Machine
end

section
/-! One equation for each outcome of 1NNN, 2NNN, 3XNN, 4XNN and 00EE (spec 41_control_flow.md R131 to R135). -/

namespace Sys2Proof.Machine

variable (s : State)

theorem exec_jp (nnn : Addr12) : exec (.jp nnn) s = .next (s.setPC (addrOperand nnn)) := rfl

theorem exec_seImm (x : RegSel) (nn : Byte) : exec (.seImm x nn) s = .next (s.skipIf (s.reg x == nn)) := rfl

theorem exec_sneImm (x : RegSel) (nn : Byte) : exec (.sneImm x nn) s = .next (s.skipIf (s.reg x != nn)) := rfl

theorem exec_call_of_not_full (nnn : Addr12) (h : s.stackFull = false) :
    exec (.call nnn) s = .next ((s.push s.PC).setPC (addrOperand nnn)) := by
  simp [exec, execCall, h]

theorem exec_call_of_full (nnn : Addr12) (h : s.stackFull = true) :
    exec (.call nnn) s = .next (s.raise (.stackOverflow s.instrAddr)) := by
  simp [exec, execCall, h]

theorem exec_ret_of_not_empty (h : s.stackEmpty = false) : exec .ret s = .next (s.pop.setPC s.top) := by
  simp [exec, execRet, h]

theorem exec_ret_of_empty (h : s.stackEmpty = true) : exec .ret s = .next (s.raise (.stackUnderflow s.instrAddr)) := by
  simp [exec, execRet, h]

end Sys2Proof.Machine
end

section
/-! The statements on jumps, calls, returns and skips on an immediate, from the equations above. -/

namespace Sys2Proof.Machine

/-- Settles O21: the word is of family 1, and `setPC` moves nothing but PC. -/
theorem jumpSetsPCToTarget : Obligations.JumpSetsPCToTarget := by
  refine ⟨encodes_F000 rfl fun _ => decodeWord_of_family_jp, fun nnn s => ?_⟩
  exact ⟨s.setPC (addrOperand nnn), exec_jp s nnn, addrOperand_toNat nnn, pcOnly_setPC s _⟩

/-- Settles O23, by whether the stack holds STACK_DEPTH entries. -/
theorem callPushesReturnAddressOrOverflows : Obligations.CallPushesReturnAddressOrOverflows := by
  refine ⟨encodes_F000 rfl fun _ => decodeWord_of_family_call, fun nnn s => ⟨fun hbelow => ?_, fun hfull => ?_⟩⟩
  · have hroom : s.stackFull = false := (State.stackFull_eq_false s).mpr hbelow
    exact ⟨(s.push s.PC).setPC (addrOperand nnn), exec_call_of_not_full s nnn hroom, State.push_stack_getElem s s.PC,
      State.push_depth s s.PC hroom, addrOperand_toNat nnn, sameMemory_of_eq rfl rfl, rfl⟩
  · exact exec_call_of_full s nnn ((State.stackFull_eq_true s).mpr hfull.ge)

/-- Settles O24, by whether the stack holds an entry; the top entry is then the one at the lowered depth. -/
theorem returnPopsPCOrUnderflows : Obligations.ReturnPopsPCOrUnderflows := by
  refine ⟨encodes_FFFF decodeWord_ret, fun s => ⟨fun k hdepth => ?_, fun hzero => ?_⟩⟩
  · have hlive : s.stackEmpty = false := (State.stackEmpty_eq_false s).mpr (by omega)
    have hpop : s.pop.SP.val = k.val := by rw [State.pop_depth s hlive, hdepth, Nat.add_sub_cancel]
    have htop : s.top = s.stack[k] := by simp [State.top_eq_getElem, hdepth]
    exact ⟨s.pop.setPC s.top, exec_ret_of_not_empty s hlive, hpop, htop, sameMemory_of_eq rfl rfl, rfl⟩
  · exact exec_ret_of_empty s ((State.stackEmpty_eq_true s).mpr hzero)

/-- Settles O26: 3XNN and 4XNN skip on opposite outcomes of one comparison, and a skip moves nothing but PC. -/
theorem immediateSkipsCompare : Obligations.ImmediateSkipsCompare := by
  refine ⟨encodes_F000 rfl fun _ => decodeWord_of_family_seImm, encodes_F000 rfl fun _ => decodeWord_of_family_sneImm,
    fun x nn s => ⟨?_, ?_⟩⟩
  · exact ⟨s.skipIf (s.reg x == nn), exec_seImm s x nn, by simp only [State.skipIf_PC, beq_iff_eq], pcOnly_skipIf s _⟩
  · exact ⟨s.skipIf (s.reg x != nn), exec_sneImm s x nn, by simp only [State.skipIf_PC, bne_iff_ne, ne_eq, ite_not],
      pcOnly_skipIf s _⟩

end Sys2Proof.Machine
end

section
/-! What the decoder makes of the words of 6XNN and 7XNN (spec 30_encoding.md R95). -/

namespace Sys2Proof

theorem decodeWord_of_family_ldImm {op : Word} (h : fieldFamily op = 0x6) :
    decodeWord op = .ok (.ldImm (fieldX op) (fieldNN op)) := by
  simp [decodeWord, h]

theorem decodeWord_of_family_addImm {op : Word} (h : fieldFamily op = 0x7) :
    decodeWord op = .ok (.addImm (fieldX op) (fieldNN op)) := by
  simp [decodeWord, h]

end Sys2Proof
end

section
/-! 6XNN and 7XNN as one register write each (spec 42_register_alu.md R150, R151), and that write in the words the statements use:
`RegsOnly`. -/

namespace Sys2Proof.Machine

variable (s : State)

/-- A write to VX changes no other register, no other item and no memory. -/
theorem regsOnly_setReg (x : RegSel) (v : Byte) : RegsOnly [x] s (s.setReg x v) := by
  refine ⟨rfl, fun k hk => ?_, sameMemory_of_eq rfl rfl⟩
  have hne : k ≠ x := List.ne_of_not_mem_cons hk
  exact State.reg_setReg_of_ne s v hne

theorem exec_ldImm (x : RegSel) (nn : Byte) : exec (.ldImm x nn) s = .next (s.setReg x nn) := rfl

theorem exec_addImm (x : RegSel) (nn : Byte) : exec (.addImm x nn) s = .next (s.setReg x (sumByte (s.reg x) nn)) := rfl

end Sys2Proof.Machine
end

section
/-! The statements on 6XNN and 7XNN, from the equations above. -/

namespace Sys2Proof.Machine

/-- Settles O29: 7XNN is one write of the wrapped sum to VX, so VF is written only as the destination. -/
theorem addImmediateWrapsWithoutFlag : Obligations.AddImmediateWrapsWithoutFlag := by
  refine ⟨encodes_F000 rfl fun _ => decodeWord_of_family_addImm, fun x nn s => ?_⟩
  have hsum : ((s.setReg x (sumByte (s.reg x) nn)).reg x).toNat = ((s.reg x).toNat + nn.toNat) % 256 := by
    rw [State.reg_setReg_self, sumByte_toNat]
  exact ⟨s.setReg x (sumByte (s.reg x) nn), exec_addImm s x nn, hsum, regsOnly_setReg s x _⟩

/-- Settles O28: 6XNN is one write of the immediate to VX. -/
theorem loadImmediateSetsRegister : Obligations.LoadImmediateSetsRegister := by
  refine ⟨encodes_F000 rfl fun _ => decodeWord_of_family_ldImm, fun x nn s => ?_⟩
  exact ⟨s.setReg x nn, exec_ldImm s x nn, State.reg_setReg_self s x nn, regsOnly_setReg s x nn⟩

end Sys2Proof.Machine
end

section
/-! What the decoder makes of the words of ANNN (spec 30_encoding.md R95). -/

namespace Sys2Proof

theorem decodeWord_of_family_ldI {op : Word} (h : fieldFamily op = 0xA) : decodeWord op = .ok (.ldI (fieldNNN op)) := by
  simp [decodeWord, h]

end Sys2Proof
end

section
/-! ANNN as one write of I (spec 43_index_memory.md R180), and that write in the words the statements use: `IOnly`. -/

namespace Sys2Proof.Machine

variable (s : State)

/-- A write of I changes no other item and no memory. -/
theorem iOnly_setI (v : Word) : IOnly s (s.setI v) := ⟨rfl, sameMemory_of_eq rfl rfl⟩

theorem exec_ldI (nnn : Addr12) : exec (.ldI nnn) s = .next (s.setI (addrOperand nnn)) := rfl

end Sys2Proof.Machine
end

section
/-! The statement on ANNN, from the equation above. -/

namespace Sys2Proof.Machine

/-- Settles O35: the word is of family 0xA, and ANNN is one write of the zero-extended address to I. -/
theorem loadIndexSetsI : Obligations.LoadIndexSetsI := by
  refine ⟨encodes_F000 rfl fun _ => decodeWord_of_family_ldI, fun nnn s => ?_⟩
  exact ⟨s.setI (addrOperand nnn), exec_ldI s nnn, addrOperand_toNat nnn, iOnly_setI s _⟩

end Sys2Proof.Machine
end

section
/-! What the decoder makes of the word of 00E0 (spec 30_encoding.md R95, R96). -/

namespace Sys2Proof

/-- The exact word of 00E0 is tested within family 0 (R96). -/
theorem decodeWord_cls : decodeWord 0x00E0 = .ok .cls := by decide

end Sys2Proof
end

section
/-! 00E0 as one write of the display (spec 44_display.md R200), and what that write leaves of memory. -/

namespace Sys2Proof.Machine

variable (s : State)

theorem sameMemory_setDisp (d : Display) : SameMemory s (s.setDisp d) := sameMemory_of_eq rfl rfl

theorem exec_cls : exec .cls s = .next (s.setDisp Display.clear) := rfl

end Sys2Proof.Machine
end

section
/-! The statement on 00E0, from the equation above. -/

namespace Sys2Proof.Machine

/-- Settles O41: 00E0 is one write of the clear display, whose pixels are all off. -/
theorem clearTurnsEveryPixelOff : Obligations.ClearTurnsEveryPixelOff := by
  refine ⟨encodes_FFFF decodeWord_cls, fun s => ?_⟩
  have hoff : ∀ y x, y < 32 → x < 64 → Display.pixel (s.setDisp Display.clear).disp y x = false := by
    intro y x _ _
    rw [State.setDisp_disp, Display.pixel_clear]
  exact ⟨s.setDisp Display.clear, exec_cls s, hoff, sameMemory_setDisp s _, rfl⟩

end Sys2Proof.Machine
end

section
/-! The decoder and the encoder against each other, and the words that select no operation (spec 30_encoding.md R93 to R97):
one fact about every word, from which both directions and the list of unknown words follow. -/

namespace Sys2Proof.Machine

/-! ## A word from its fields -/

section Words

variable {op : Word} {f n : Nibble} {nn : Byte}

theorem formatFA_of_family (hf : fieldFamily op = f) : formatFA f (fieldNNN op) = op := by
  rw [← hf, formatFA_fields]

theorem formatFXNN_of_fields (hf : fieldFamily op = f) (hn : fieldNN op = nn) : formatFXNN f (fieldX op) nn = op := by
  rw [← hf, ← hn, formatFXNN_fields]

theorem formatFXYN_of_fields (hf : fieldFamily op = f) (hn : fieldN op = n) :
    formatFXYN f (fieldX op) (fieldY op) n = op := by
  rw [← hf, ← hn, formatFXYN_fields]

/-- The list of R97 in terms of the fields the decoder tests. -/
theorem unknownWord_iff_fields (op : Word) : UnknownWord op ↔
    ((fieldFamily op).toNat = 5 ∧ (fieldN op).toNat ≠ 0) ∨
    ((fieldFamily op).toNat = 8 ∧ (fieldN op).toNat ∈ [0x8, 0x9, 0xA, 0xB, 0xC, 0xD, 0xF]) ∨
    ((fieldFamily op).toNat = 9 ∧ (fieldN op).toNat ≠ 0) ∨
    ((fieldFamily op).toNat = 14 ∧ (fieldNN op).toNat ∉ [0x9E, 0xA1]) ∨
    ((fieldFamily op).toNat = 15 ∧ (fieldNN op).toNat ∉ [0x07, 0x0A, 0x15, 0x18, 0x1E, 0x29, 0x33, 0x55, 0x65]) := by
  simp only [UnknownWord, fieldFamily_toNat, fieldN_toNat, fieldNN_toNat]

end Words

/-! ## Every word decodes to the well-formed instruction it encodes, or is unknown -/

/-- `d` is the right answer for `op`: the well-formed instruction whose word `op` is, or the refusal of a word of R97. -/
def DecodesExactly (op : Word) (d : Except DecodeError Instr) : Prop :=
  (∃ i, d = .ok i ∧ encode i = op ∧ i.wellFormed = true ∧ ¬UnknownWord op) ∨
  (d = .error (.unknownOpcode op) ∧ UnknownWord op)

section Exact

variable {op : Word}

theorem DecodesExactly.ok {i : Instr} (he : encode i = op) (hw : i.wellFormed = true) (hu : ¬UnknownWord op) :
    DecodesExactly op (.ok i) := .inl ⟨i, rfl, he, hw, hu⟩

theorem DecodesExactly.error (hu : UnknownWord op) : DecodesExactly op (.error (.unknownOpcode op)) := .inr ⟨rfl, hu⟩

theorem decodeFamily8_exact (hf : fieldFamily op = 0x8) : DecodesExactly op (decodeFamily8 op) := by
  have hlt := (fieldN op).isLt
  have hu : UnknownWord op ↔ (fieldN op).toNat ∈ [0x8, 0x9, 0xA, 0xB, 0xC, 0xD, 0xF] := by
    simp [unknownWord_iff_fields, hf]
  unfold decodeFamily8
  split <;> rename_i hn
  case h_10 =>
    refine .error (hu.mpr ?_)
    simp only [List.mem_cons, List.not_mem_nil]
    grind
  all_goals exact .ok (formatFXYN_of_fields hf (BitVec.eq_of_toNat_eq hn)) rfl (by simp [hu, hn])

theorem decodeFamilyE_exact (hf : fieldFamily op = 0xE) : DecodesExactly op (decodeFamilyE op) := by
  have hu : UnknownWord op ↔ (fieldNN op).toNat ∉ [0x9E, 0xA1] := by simp [unknownWord_iff_fields, hf]
  unfold decodeFamilyE
  split <;> rename_i hn
  case h_3 =>
    refine .error (hu.mpr ?_)
    simp only [List.mem_cons, List.not_mem_nil]
    grind
  all_goals exact .ok (formatFXNN_of_fields hf (BitVec.eq_of_toNat_eq hn)) rfl (by simp [hu, hn])

theorem decodeFamilyF_exact (hf : fieldFamily op = 0xF) : DecodesExactly op (decodeFamilyF op) := by
  have hu : UnknownWord op ↔ (fieldNN op).toNat ∉ [0x07, 0x0A, 0x15, 0x18, 0x1E, 0x29, 0x33, 0x55, 0x65] := by
    simp [unknownWord_iff_fields, hf]
  unfold decodeFamilyF
  split <;> rename_i hn
  case h_10 =>
    refine .error (hu.mpr ?_)
    simp only [List.mem_cons, List.not_mem_nil]
    grind
  all_goals exact .ok (formatFXNN_of_fields hf (BitVec.eq_of_toNat_eq hn)) rfl (by simp [hu, hn])

/-- Families 5 and 9 need N = 0 (R95). -/
theorem decodesExactly_needsZeroN {f : Nibble} {i : Instr} (hf : fieldFamily op = f) (h59 : f.toNat = 5 ∨ f.toNat = 9)
    (he : encode i = formatFXYN f (fieldX op) (fieldY op) 0) (hw : i.wellFormed = true) :
    DecodesExactly op (if fieldN op = 0 then .ok i else .error (.unknownOpcode op)) := by
  split
  case isTrue hn =>
    refine .ok (he.trans (formatFXYN_of_fields hf hn)) hw ?_
    rw [unknownWord_iff_fields, hf, hn]
    rcases h59 with h | h <;> simp [h]
  case isFalse hn =>
    have hne : (fieldN op).toNat ≠ 0 := fun h => hn (BitVec.eq_of_toNat_eq h)
    refine .error ((unknownWord_iff_fields op).mpr ?_)
    rw [hf]
    rcases h59 with h | h <;> simp [h, hne]

/-- In family 0 the exact words of 00E0 and 00EE come first (R96). -/
theorem decodeFamily0_exact (hf : fieldFamily op = 0x0) :
    DecodesExactly op (if op = 0x00E0 then .ok .cls else if op = 0x00EE then .ok .ret else .ok (.sys (fieldNNN op))) := by
  have hu : ¬UnknownWord op := by simp [unknownWord_iff_fields, hf]
  have hop : formatFA 0x0 (fieldNNN op) = op := formatFA_of_family hf
  split
  case isTrue hcls => exact .ok hcls.symm rfl hu
  split
  case isTrue hret => exact .ok hret.symm rfl hu
  case isFalse hcls hret =>
    refine .ok hop ?_ hu
    simp only [Instr.wellFormed, Bool.and_eq_true, bne_iff_ne]
    exact ⟨fun h => hcls (by rw [← hop, h]; rfl), fun h => hret (by rw [← hop, h]; rfl)⟩

/-- Every word decodes to the well-formed instruction it is the word of, or is refused as a word of R97. -/
theorem decodeWord_exact (op : Word) : DecodesExactly op (decodeWord op) := by
  have hlt := (fieldFamily op).isLt
  have hknown : ∀ k, (fieldFamily op).toNat = k → k ∉ [5, 8, 9, 14, 15] → ¬UnknownWord op := by
    intro k hk hne
    rw [unknownWord_iff_fields, hk]
    grind
  unfold decodeWord
  split <;> rename_i hf
  case h_1 => exact decodeFamily0_exact (BitVec.eq_of_toNat_eq hf)
  case h_6 => exact decodesExactly_needsZeroN (BitVec.eq_of_toNat_eq (y := 0x5) hf) (.inl rfl) rfl rfl
  case h_9 => exact decodeFamily8_exact (BitVec.eq_of_toNat_eq hf)
  case h_10 => exact decodesExactly_needsZeroN (BitVec.eq_of_toNat_eq (y := 0x9) hf) (.inr rfl) rfl rfl
  case h_15 => exact decodeFamilyE_exact (BitVec.eq_of_toNat_eq hf)
  case h_16 =>
    have h15 : (fieldFamily op).toNat = 15 := by grind
    exact decodeFamilyF_exact (BitVec.eq_of_toNat_eq h15)
  case h_14 => exact .ok (formatFXYN_of_fields (BitVec.eq_of_toNat_eq hf) rfl) rfl (hknown _ hf (by decide))
  case h_2 | h_3 | h_11 | h_12 =>
    exact .ok (formatFA_of_family (BitVec.eq_of_toNat_eq hf)) rfl (hknown _ hf (by decide))
  all_goals exact .ok (formatFXNN_of_fields (BitVec.eq_of_toNat_eq hf) rfl) rfl (hknown _ hf (by decide))

end Exact

/-- A word that decodes is the word of the well-formed instruction it decodes to, and is not on the list of R97. -/
theorem decodeWord_eq_ok {op : Word} {i : Instr} (h : decodeWord op = .ok i) :
    encode i = op ∧ i.wellFormed = true ∧ ¬UnknownWord op := by
  rcases decodeWord_exact op with ⟨j, hj, hspec⟩ | ⟨herr, -⟩
  · obtain rfl : i = j := Except.ok.inj (h.symm.trans hj)
    exact hspec
  · exact nomatch h.symm.trans herr

/-- A word that does not decode is refused by name and is on the list of R97. -/
theorem decodeWord_eq_error {op : Word} {e : DecodeError} (h : decodeWord op = .error e) :
    e = .unknownOpcode op ∧ UnknownWord op := by
  rcases decodeWord_exact op with ⟨j, hj, -⟩ | ⟨herr, hunknown⟩
  · exact nomatch h.symm.trans hj
  · exact ⟨Except.error.inj (h.symm.trans herr), hunknown⟩

theorem decodeWord_of_unknownWord {op : Word} (h : UnknownWord op) : decodeWord op = .error (.unknownOpcode op) := by
  rcases decodeWord_exact op with ⟨_, -, -, -, hknown⟩ | ⟨herr, -⟩
  · exact absurd h hknown
  · exact herr

theorem decodeWord_of_family_sys {op : Word} (h : fieldFamily op = 0x0) (hcls : op ≠ 0x00E0) (hret : op ≠ 0x00EE) :
    decodeWord op = .ok (.sys (fieldNNN op)) := by
  simp only [decodeWord, h, if_neg hcls, if_neg hret]
  rfl

/-- The decoder on the encoder's word, one case for each operation of the opcode table. -/
theorem decodeWord_encode {i : Instr} (hw : i.wellFormed = true) : decodeWord (encode i) = .ok i := by
  cases i with
  | cls => decide
  | ret => decide
  | sys nnn =>
    simp only [Instr.wellFormed, Bool.and_eq_true, bne_iff_ne] at hw
    have hcls : formatFA 0x0 nnn ≠ 0x00E0 := fun h => hw.1 ((formatFA_inj (g := 0x0) (b := 0x0E0)).mp h).2
    have hret : formatFA 0x0 nnn ≠ 0x00EE := fun h => hw.2 ((formatFA_inj (g := 0x0) (b := 0x0EE)).mp h).2
    rw [encode, decodeWord_of_family_sys (fieldFamily_formatFA _ _) hcls hret, fieldNNN_formatFA]
  | seReg | sneReg => simp [encode, decodeWord]
  | ldReg | or | and | xor | addReg | sub | shr | subn | shl => simp [encode, decodeWord, decodeFamily8]
  | skp | sknp => simp [encode, decodeWord, decodeFamilyE]
  | ldVxDt | ldVxK | ldDtVx | ldStVx | addIVx | ldFVx | ldBVx | ldIVx | ldVxI =>
    simp [encode, decodeWord, decodeFamilyF]
  | _ => simp [encode, decodeWord]

/-! ## The rows of the opcode table, by format -/

section Rows

variable {f n : Nibble} {nn : Byte} {m : Word}

/-- A word that is the word of a well-formed instruction decodes to it. -/
theorem decodeWord_of_encode_eq {op : Word} {i : Instr} (he : encode i = op) (hw : i.wellFormed = true) :
    decodeWord op = .ok i := he ▸ decodeWord_encode hw

theorem encodes_formatFA {i : Addr12 → Instr} (f : Nibble) (hm : formatFA f 0 = m) (he : ∀ a, encode (i a) = formatFA f a)
    (hw : ∀ a, (i a).wellFormed = true) : Encodes 0xF000 m (fun op => i (op.extractLsb' 0 12)) :=
  encodes_F000 hm fun _ hf => decodeWord_of_encode_eq ((he _).trans (formatFA_of_family hf)) (hw _)

theorem encodes_formatFXNN {i : RegSel → Byte → Instr} (f : Nibble) (hm : formatFA f 0 = m)
    (he : ∀ x nn, encode (i x nn) = formatFXNN f x nn) (hw : ∀ x nn, (i x nn).wellFormed = true) :
    Encodes 0xF000 m (fun op => i (op.extractLsb' 8 4) (op.extractLsb' 0 8)) :=
  encodes_F000 hm fun _ hf => decodeWord_of_encode_eq ((he _ _).trans (formatFXNN_of_fields hf rfl)) (hw _ _)

theorem encodes_formatFXYN {i : RegSel → RegSel → Nibble → Instr} (f : Nibble) (hm : formatFA f 0 = m)
    (he : ∀ x y n, encode (i x y n) = formatFXYN f x y n) (hw : ∀ x y n, (i x y n).wellFormed = true) :
    Encodes 0xF000 m (fun op => i (op.extractLsb' 8 4) (op.extractLsb' 4 4) (op.extractLsb' 0 4)) :=
  encodes_F000 hm fun _ hf => decodeWord_of_encode_eq ((he _ _ _).trans (formatFXYN_of_fields hf rfl)) (hw _ _ _)

/-- Format FXY is FXYN with N fixed. -/
theorem encodes_formatFXY {i : RegSel → RegSel → Instr} (f n : Nibble) (hm : formatFXYN f 0 0 n = m)
    (he : ∀ x y, encode (i x y) = formatFXYN f x y n) (hw : ∀ x y, (i x y).wellFormed = true) :
    Encodes 0xF00F m (fun op => i (op.extractLsb' 8 4) (op.extractLsb' 4 4)) := by
  intro op hop
  obtain ⟨hf, hn⟩ := (match_F00F op f n).mp (hop.trans hm.symm)
  exact decodeWord_of_encode_eq ((he _ _).trans (formatFXYN_of_fields hf hn)) (hw _ _)

/-- Format FX is FXNN with NN fixed. -/
theorem encodes_formatFX {i : RegSel → Instr} (f : Nibble) (nn : Byte) (hm : formatFXNN f 0 nn = m)
    (he : ∀ x, encode (i x) = formatFXNN f x nn) (hw : ∀ x, (i x).wellFormed = true) :
    Encodes 0xF0FF m (fun op => i (op.extractLsb' 8 4)) := by
  intro op hop
  obtain ⟨hf, hn⟩ := (match_F0FF op f nn).mp (hop.trans hm.symm)
  exact decodeWord_of_encode_eq ((he _).trans (formatFXNN_of_fields hf hn)) (hw _)

end Rows

end Sys2Proof.Machine
end

section
/-! The statements on the decoder and the encoder, from the facts above. -/

namespace Sys2Proof.Machine

/-- Settles O1, from the decoder on the encoder's word; the two bytes of a word are read back as that word. -/
theorem decodeOfEncodeIsIdentity : Obligations.DecodeOfEncodeIsIdentity := fun _ hw =>
  ⟨decodeWord_encode hw, decode_bytes_of_word (decodeWord_encode hw)⟩

/-- Settles O2: each word is the word of the instruction it decodes to. -/
theorem encodeOfDecodeIsIdentity : Obligations.EncodeOfDecodeIsIdentity := by
  intro op i hdecode
  obtain ⟨hencode, hwf, -⟩ := decodeWord_eq_ok hdecode
  exact ⟨hencode, hwf⟩

/-- Settles O3: a refusal is of a word of R97, so every other word decodes. -/
theorem decodeFailsExactlyOnUnknownWords : Obligations.DecodeFailsExactlyOnUnknownWords := by
  refine fun op => ⟨decodeWord_of_unknownWord, fun hknown => ?_⟩
  cases hdecode : decodeWord op with
  | ok i => exact ⟨i, rfl⟩
  | error e => exact absurd (decodeWord_eq_error hdecode).2 hknown

/-- Settles O4, row by row: a word that matches a row is the row's format applied to the word's own fields. -/
theorem opcodeMapDecodes : Obligations.OpcodeMapDecodes := by
  have hsys : ∀ op : Word, op &&& 0xF000 = 0x0000 → op ≠ 0x00E0 → op ≠ 0x00EE →
      decodeWord op = .ok (.sys (op.extractLsb' 0 12)) :=
    fun op hop => decodeWord_of_family_sys ((match_F000 op 0x0).mp hop)
  exact ⟨encodes_FFFF decodeWord_cls, encodes_FFFF decodeWord_ret, hsys,
    encodes_formatFA 0x1 rfl (fun _ => rfl) (fun _ => rfl),
    encodes_formatFA 0x2 rfl (fun _ => rfl) (fun _ => rfl),
    encodes_formatFXNN 0x3 rfl (fun _ _ => rfl) (fun _ _ => rfl),
    encodes_formatFXNN 0x4 rfl (fun _ _ => rfl) (fun _ _ => rfl),
    encodes_formatFXY 0x5 0x0 rfl (fun _ _ => rfl) (fun _ _ => rfl),
    encodes_formatFXNN 0x6 rfl (fun _ _ => rfl) (fun _ _ => rfl),
    encodes_formatFXNN 0x7 rfl (fun _ _ => rfl) (fun _ _ => rfl),
    encodes_formatFXY 0x8 0x0 rfl (fun _ _ => rfl) (fun _ _ => rfl),
    encodes_formatFXY 0x8 0x1 rfl (fun _ _ => rfl) (fun _ _ => rfl),
    encodes_formatFXY 0x8 0x2 rfl (fun _ _ => rfl) (fun _ _ => rfl),
    encodes_formatFXY 0x8 0x3 rfl (fun _ _ => rfl) (fun _ _ => rfl),
    encodes_formatFXY 0x8 0x4 rfl (fun _ _ => rfl) (fun _ _ => rfl),
    encodes_formatFXY 0x8 0x5 rfl (fun _ _ => rfl) (fun _ _ => rfl),
    encodes_formatFXY 0x8 0x6 rfl (fun _ _ => rfl) (fun _ _ => rfl),
    encodes_formatFXY 0x8 0x7 rfl (fun _ _ => rfl) (fun _ _ => rfl),
    encodes_formatFXY 0x8 0xE rfl (fun _ _ => rfl) (fun _ _ => rfl),
    encodes_formatFXY 0x9 0x0 rfl (fun _ _ => rfl) (fun _ _ => rfl),
    encodes_formatFA 0xA rfl (fun _ => rfl) (fun _ => rfl),
    encodes_formatFA 0xB rfl (fun _ => rfl) (fun _ => rfl),
    encodes_formatFXNN 0xC rfl (fun _ _ => rfl) (fun _ _ => rfl),
    encodes_formatFXYN 0xD rfl (fun _ _ _ => rfl) (fun _ _ _ => rfl),
    encodes_formatFX 0xE 0x9E rfl (fun _ => rfl) (fun _ => rfl),
    encodes_formatFX 0xE 0xA1 rfl (fun _ => rfl) (fun _ => rfl),
    encodes_formatFX 0xF 0x07 rfl (fun _ => rfl) (fun _ => rfl),
    encodes_formatFX 0xF 0x0A rfl (fun _ => rfl) (fun _ => rfl),
    encodes_formatFX 0xF 0x15 rfl (fun _ => rfl) (fun _ => rfl),
    encodes_formatFX 0xF 0x18 rfl (fun _ => rfl) (fun _ => rfl),
    encodes_formatFX 0xF 0x1E rfl (fun _ => rfl) (fun _ => rfl),
    encodes_formatFX 0xF 0x29 rfl (fun _ => rfl) (fun _ => rfl),
    encodes_formatFX 0xF 0x33 rfl (fun _ => rfl) (fun _ => rfl),
    encodes_formatFX 0xF 0x55 rfl (fun _ => rfl) (fun _ => rfl),
    encodes_formatFX 0xF 0x65 rfl (fun _ => rfl) (fun _ => rfl)⟩

/-- Settles O5: nine of the words are the words of the instructions named, and 0x5121 is of family 5 with N = 1. -/
theorem sampleWordsDecode : Obligations.SampleWordsDecode :=
  ⟨decodeWord_cls, decodeWord_encode (i := .jp 0x234) rfl, decodeWord_encode (i := .seImm 3 0x42) rfl,
    decodeWord_encode (i := .shr 1 2) rfl, decodeWord_encode (i := .ldI 0x2F0) rfl,
    decodeWord_encode (i := .rnd 3 0x0F) rfl, decodeWord_encode (i := .drw 0 1 5) rfl,
    decodeWord_encode (i := .skp 0) rfl, decodeWord_encode (i := .ldVxI 2) rfl,
    decodeWord_of_unknownWord (.inl (by decide))⟩

end Sys2Proof.Machine
end

section
/-! One equation for each outcome of the instructions that the sections above do not speak of (spec 41_control_flow.md to
45_timers_keys.md). -/

namespace Sys2Proof.Machine

/-! ## Instructions with one outcome -/

section OneOutcome

variable (s : State) (x y : RegSel) (nn : Byte) (nnn : Addr12)

theorem exec_sys : exec (.sys nnn) s = .next s := rfl

theorem exec_seReg : exec (.seReg x y) s = .next (s.skipIf (s.reg x == s.reg y)) := rfl

theorem exec_sneReg : exec (.sneReg x y) s = .next (s.skipIf (s.reg x != s.reg y)) := rfl

theorem exec_jpV0 : exec (.jpV0 nnn) s = .next (s.setPC (addrOperand nnn + indexOperand (s.reg 0))) := rfl

theorem exec_ldReg : exec (.ldReg x y) s = .next (s.setReg x (s.reg y)) := rfl

theorem exec_or : exec (.or x y) s = .next (s.setReg x (s.reg x ||| s.reg y)) := rfl

theorem exec_and : exec (.and x y) s = .next (s.setReg x (s.reg x &&& s.reg y)) := rfl

theorem exec_xor : exec (.xor x y) s = .next (s.setReg x (s.reg x ^^^ s.reg y)) := rfl

theorem exec_addReg :
    exec (.addReg x y) s = .next (s.setRegFlag x (sumByte (s.reg x) (s.reg y)) (carryFlag (s.reg x) (s.reg y))) := rfl

theorem exec_sub :
    exec (.sub x y) s = .next (s.setRegFlag x (differenceByte (s.reg x) (s.reg y)) (noBorrowFlag (s.reg x) (s.reg y))) := rfl

theorem exec_subn :
    exec (.subn x y) s = .next (s.setRegFlag x (differenceByte (s.reg y) (s.reg x)) (noBorrowFlag (s.reg y) (s.reg x))) := rfl

theorem exec_shr : exec (.shr x y) s = .next (s.setRegFlag x (halfByte (s.reg x)) (shiftedOutRight (s.reg x))) := rfl

theorem exec_shl : exec (.shl x y) s = .next (s.setRegFlag x (doubleByte (s.reg x)) (shiftedOutLeft (s.reg x))) := rfl

theorem exec_rnd : exec (.rnd x nn) s = .next ((s.setReg x (s.drawn &&& nn)).consumeDraw) := rfl

theorem exec_skp : exec (.skp x) s = .next (s.skipIf (s.keyDown (keyOperand (s.reg x)))) := rfl

theorem exec_sknp : exec (.sknp x) s = .next (s.skipIf (!s.keyDown (keyOperand (s.reg x)))) := rfl

theorem exec_ldVxDt : exec (.ldVxDt x) s = .next (s.setReg x s.DT) := rfl

theorem exec_ldVxK : exec (.ldVxK x) s = .next ((s.enterAwait x).setPC (s.PC - 2)) := rfl

theorem exec_ldDtVx : exec (.ldDtVx x) s = .next (s.setDT (s.reg x)) := rfl

theorem exec_ldStVx : exec (.ldStVx x) s = .next (s.setST (s.reg x)) := rfl

theorem exec_addIVx : exec (.addIVx x) s = .next (s.setI (s.I + indexOperand (s.reg x))) := rfl

theorem exec_ldFVx : exec (.ldFVx x) s = .next (s.setI (glyphOperand (s.reg x))) := rfl

end OneOutcome

/-! ## Instructions that check a range of memory first (20_memory.md R74) -/

/-- The loop of R201 with the operands of a DXYN: the display after it and the collision flag. -/
def State.drawResult (s : State) (x y : RegSel) (n : Nibble) : Display × Bool :=
  drawRows (fun r => s.readByte (s.I.toNat + r)) (s.drawX x) (s.drawY y) (s.drawCount y n) s.disp

/-- The register file after a block load (43_index_memory.md R185). -/
def State.blockLoaded (s : State) (x : RegSel) : Vector Byte 16 :=
  loadRegs (fun k => s.readByte (s.I.toNat + k)) (blockCount x) s.V

section RangeChecked

variable {s : State} {x y : RegSel} {n : Nibble} {a : Nat}

theorem exec_drw_of_fits (h : rangeError s.I.toNat (s.drawCount y n) = none) :
    exec (.drw x y n) s = .next ((s.setDisp (s.drawResult x y n).1).setReg vf (flagByte (s.drawResult x y n).2)) := by
  simp only [exec, execDrw, h, State.drawResult]

theorem exec_drw_of_rangeError (h : rangeError s.I.toNat (s.drawCount y n) = some a) :
    exec (.drw x y n) s = .next (s.raise (.addressError a)) := by
  simp only [exec, execDrw, h]

theorem exec_ldBVx_of_fits (h : rangeError s.I.toNat 3 = none) :
    exec (.ldBVx x) s = .next (s.storeBytes s.I.toNat (bcdDigits (s.reg x))) := by
  simp only [exec, execLdBVx, h]

theorem exec_ldBVx_of_rangeError (h : rangeError s.I.toNat 3 = some a) :
    exec (.ldBVx x) s = .next (s.raise (.addressError a)) := by
  simp only [exec, execLdBVx, h]

theorem exec_ldIVx_of_fits (h : rangeError s.I.toNat (blockCount x) = none) :
    exec (.ldIVx x) s = .next (s.storeBytes s.I.toNat (s.blockRegs x)) := by
  simp only [exec, execLdIVx, h]

theorem exec_ldIVx_of_rangeError (h : rangeError s.I.toNat (blockCount x) = some a) :
    exec (.ldIVx x) s = .next (s.raise (.addressError a)) := by
  simp only [exec, execLdIVx, h]

theorem exec_ldVxI_of_fits (h : rangeError s.I.toNat (blockCount x) = none) :
    exec (.ldVxI x) s = .next { s with V := s.blockLoaded x } := by
  simp only [exec, execLdVxI, h, State.blockLoaded]

theorem exec_ldVxI_of_rangeError (h : rangeError s.I.toNat (blockCount x) = some a) :
    exec (.ldVxI x) s = .next (s.raise (.addressError a)) := by
  simp only [exec, execLdVxI, h]

/-- A range that runs past the end of memory fails at its lowest address there. -/
theorem rangeError_of_past {start count : Nat} (hpos : 0 < count) (hpast : memSize < start + count) :
    rangeError start count = some (max start memSize) :=
  rangeError_eq_some.mpr ⟨⟨hpos, hpast⟩, rfl⟩

theorem rangeError_of_fits {start count : Nat} (h : start + count ≤ memSize) : rangeError start count = none :=
  rangeError_eq_none.mpr (.inr h)

/-- A register after a block load: below `blockCount x` the byte at its place in the block, else its old value. -/
theorem State.blockLoaded_getElem (s : State) (x k : RegSel) :
    (s.blockLoaded x)[k.toNat]'k.isLt = if k.toNat ≤ x.toNat then s.readByte (s.I.toNat + k.toNat) else s.reg k := by
  rw [State.blockLoaded, loadRegs_getElem _ _ _ k.isLt]
  exact if_congr Nat.lt_succ_iff rfl rfl

end RangeChecked

end Sys2Proof.Machine
end

section
/-! Everything an instruction can do, said once: it answers a next state, and that state differs from the one before in one of a
few ways, each with the instructions it belongs to. What each instruction writes, what every step keeps and which diagnostics there
are follow from this. -/

namespace Sys2Proof.Machine

/-- The instructions that write PC beyond the +2 of the fetch (10_state.md R36). -/
def writesPC : Instr → Bool
  | .ret | .jp _ | .call _ | .seImm _ _ | .sneImm _ _ | .seReg _ _ | .sneReg _ _ | .jpV0 _ | .skp _ | .sknp _
  | .ldVxK _ => true
  | _ => false

/-- The instructions that access memory at I (20_memory.md R74). -/
def AccessesMemory (i : Instr) : Prop :=
  (∃ x y n, i = .drw x y n) ∨ (∃ x, i = .ldBVx x) ∨ (∃ x, i = .ldIVx x) ∨ ∃ x, i = .ldVxI x

/-- The diagnostics an instruction can raise in `s`, whose PC is past the instruction (60_exceptions.md R241). -/
inductive Raises (s : State) : Instr → Diag → Prop
  | overflow (nnn : Addr12) (hfull : s.stackFull = true) : Raises s (.call nnn) (.stackOverflow s.instrAddr)
  | underflow (hempty : s.stackEmpty = true) : Raises s .ret (.stackUnderflow s.instrAddr)
  | address {i : Instr} (hi : AccessesMemory i) : Raises s i (.addressError (max s.I.toNat memSize))

/-- `Effect s i t`: executing `i` in `s` may answer `t`. -/
inductive Effect (s : State) : Instr → State → Prop
  | setPC {i : Instr} (v : Word) (hi : writesPC i = true) : Effect s i (s.setPC v)
  | regs {i : Instr} (V : Vector Byte 16) (hV : ∀ k, k ∉ regsWritten i → V[k.toNat]'k.isLt = s.reg k) :
      Effect s i { s with V := V }
  | draw (x : RegSel) (nn v : Byte) : Effect s (.rnd x nn) ((s.setReg x v).consumeDraw)
  | setI {i : Instr} (v : Word) (hi : (∃ nnn, i = .ldI nnn) ∨ (∃ x, i = .addIVx x) ∨ ∃ x, i = .ldFVx x) :
      Effect s i (s.setI v)
  | setDT (x : RegSel) (v : Byte) : Effect s (.ldDtVx x) (s.setDT v)
  | setST (x : RegSel) (v : Byte) : Effect s (.ldStVx x) (s.setST v)
  | clear (d : Display) : Effect s .cls (s.setDisp d)
  | sprite (x y : RegSel) (n : Nibble) (d : Display) (v : Byte) : Effect s (.drw x y n) ((s.setDisp d).setReg vf v)
  | store {i : Instr} (vs : List Byte) (hi : (∃ x, i = .ldBVx x) ∨ ∃ x, i = .ldIVx x)
      (hfits : s.I.toNat + vs.length ≤ memSize) : Effect s i (s.storeBytes s.I.toNat vs)
  | call (nnn : Addr12) (hroom : s.stackFull = false) : Effect s (.call nnn) ((s.push s.PC).setPC (addrOperand nnn))
  | ret (hlive : s.stackEmpty = false) : Effect s .ret (s.pop.setPC s.top)
  | await (x : RegSel) : Effect s (.ldVxK x) ((s.enterAwait x).setPC (s.PC - 2))
  | raise {i : Instr} {d : Diag} (h : Raises s i d) : Effect s i (s.raise d)

variable {s : State}

theorem Effect.of_regsOnly {i : Instr} {t : State} (h : RegsOnly (regsWritten i) s t) : Effect s i t := by
  obtain ⟨ht, hregs, -⟩ := h
  rw [ht]
  exact .regs t.V hregs

/-- A result and a flag change VX and VF only. -/
theorem regsOnly_setRegFlag (s : State) (x : RegSel) (r : Byte) (b : Bool) : RegsOnly [x, 0xF] s (s.setRegFlag x r b) := by
  refine ⟨rfl, fun k hk => ?_, sameMemory_of_eq rfl rfl⟩
  simp only [List.mem_cons, List.not_mem_nil, or_false, not_or] at hk
  exact State.reg_setRegFlag_other s r b hk.1 hk.2

/-- V0 to VX, as `regsWritten` lists them. -/
theorem mem_regsWritten_ldVxI {x k : RegSel} : k ∈ regsWritten (.ldVxI x) ↔ k.toNat ≤ x.toNat := by
  simp only [regsWritten, List.mem_map, List.mem_range]
  constructor
  · rintro ⟨j, hj, rfl⟩
    exact (Nat.mod_le j 16).trans (Nat.lt_succ_iff.mp hj)
  · intro hk
    exact ⟨k.toNat, Nat.lt_succ_of_le hk, by simp⟩

/-- A failed range check at I is an AddressError of an instruction that accesses memory. -/
theorem Effect.of_rangeError {i : Instr} {count a : Nat} (hi : AccessesMemory i) (h : rangeError s.I.toNat count = some a) :
    Effect s i (s.raise (.addressError a)) := by
  obtain ⟨-, rfl⟩ := rangeError_eq_some.mp h
  exact .raise (.address hi)

/-- Every instruction answers a next state, with one of the effects above. -/
theorem exec_effect (i : Instr) (s : State) : ∃ t, exec i s = .next t ∧ Effect s i t := by
  cases i with
  | cls => exact ⟨_, exec_cls s, .clear _⟩
  | ret =>
    cases hempty : s.stackEmpty with
    | false => exact ⟨_, exec_ret_of_not_empty s hempty, .ret hempty⟩
    | true => exact ⟨_, exec_ret_of_empty s hempty, .raise (.underflow hempty)⟩
  | sys nnn => exact ⟨_, exec_sys s nnn, .regs s.V fun _ _ => rfl⟩
  | call nnn =>
    cases hfull : s.stackFull with
    | false => exact ⟨_, exec_call_of_not_full s nnn hfull, .call nnn hfull⟩
    | true => exact ⟨_, exec_call_of_full s nnn hfull, .raise (.overflow nnn hfull)⟩
  | jp | seImm | sneImm | seReg | sneReg | jpV0 | skp | sknp => exact ⟨_, rfl, .setPC _ rfl⟩
  | ldImm | addImm | ldReg | or | and | xor | ldVxDt => exact ⟨_, rfl, .of_regsOnly (regsOnly_setReg s _ _)⟩
  | addReg | sub | shr | subn | shl => exact ⟨_, rfl, .of_regsOnly (regsOnly_setRegFlag s _ _ _)⟩
  | rnd x nn => exact ⟨_, exec_rnd s x nn, .draw x nn _⟩
  | ldI nnn => exact ⟨_, exec_ldI s nnn, .setI _ (.inl ⟨nnn, rfl⟩)⟩
  | addIVx x => exact ⟨_, exec_addIVx s x, .setI _ (.inr (.inl ⟨x, rfl⟩))⟩
  | ldFVx x => exact ⟨_, exec_ldFVx s x, .setI _ (.inr (.inr ⟨x, rfl⟩))⟩
  | ldVxK x => exact ⟨_, exec_ldVxK s x, .await x⟩
  | ldDtVx x => exact ⟨_, exec_ldDtVx s x, .setDT x _⟩
  | ldStVx x => exact ⟨_, exec_ldStVx s x, .setST x _⟩
  | drw x y n =>
    cases hr : rangeError s.I.toNat (s.drawCount y n) with
    | none => exact ⟨_, exec_drw_of_fits hr, .sprite x y n _ _⟩
    | some a => exact ⟨_, exec_drw_of_rangeError hr, .of_rangeError (.inl ⟨x, y, n, rfl⟩) hr⟩
  | ldBVx x =>
    cases hr : rangeError s.I.toNat 3 with
    | none =>
      have hfits : s.I.toNat + (bcdDigits (s.reg x)).length ≤ memSize := (rangeError_eq_none.mp hr).resolve_left (by decide)
      exact ⟨_, exec_ldBVx_of_fits hr, .store _ (.inl ⟨x, rfl⟩) hfits⟩
    | some a => exact ⟨_, exec_ldBVx_of_rangeError hr, .of_rangeError (.inr (.inl ⟨x, rfl⟩)) hr⟩
  | ldIVx x =>
    cases hr : rangeError s.I.toNat (blockCount x) with
    | none =>
      have hfits : s.I.toNat + (s.blockRegs x).length ≤ memSize := by
        rw [State.blockRegs_length]
        exact (rangeError_eq_none.mp hr).resolve_left (Nat.succ_ne_zero _)
      exact ⟨_, exec_ldIVx_of_fits hr, .store _ (.inr ⟨x, rfl⟩) hfits⟩
    | some a => exact ⟨_, exec_ldIVx_of_rangeError hr, .of_rangeError (.inr (.inr (.inl ⟨x, rfl⟩))) hr⟩
  | ldVxI x =>
    cases hr : rangeError s.I.toNat (blockCount x) with
    | none =>
      refine ⟨_, exec_ldVxI_of_fits hr, .regs _ fun k hk => ?_⟩
      rw [State.blockLoaded_getElem, if_neg (mt mem_regsWritten_ldVxI.mpr hk)]
    | some a => exact ⟨_, exec_ldVxI_of_rangeError hr, .of_rangeError (.inr (.inr (.inr ⟨x, rfl⟩))) hr⟩

/-- An answered next state is one of the effects. -/
theorem Effect.of_exec {i : Instr} {t : State} (h : exec i s = .next t) : Effect s i t := by
  obtain ⟨u, hu, heffect⟩ := exec_effect i s
  obtain rfl : u = t := Host.Outcome.next.inj (hu.symm.trans h)
  exact heffect

end Sys2Proof.Machine
end

section
/-! The statements on control flow, registers, timers, keys and I, from the equations above. -/

namespace Sys2Proof.Machine

/-! ## Flags and operands in the words of the statements -/

theorem flagByte_decide (p : Prop) [Decidable p] : flagByte (decide p) = if p then 1 else 0 := by
  simp [flagByte]

/-- The latch level that a key skip tests (decision D15). -/
theorem State.keyDown_keyOperand (s : State) {v : Byte} {k : Fin 16} (h : v.toNat % 16 = k.val) :
    s.keyDown (keyOperand v) = s.key[k] := by
  simp [State.keyDown, keyOperand_toNat, h]

/-- NNN + V0 is far below 2^16 (decision D13). -/
theorem jumpV0Target_toNat (nnn : Addr12) (v : Byte) :
    (addrOperand nnn + indexOperand v).toNat = nnn.toNat + v.toNat := by
  have := nnn.isLt
  have := v.isLt
  rw [BitVec.toNat_add, addrOperand_toNat, indexOperand_toNat]
  omega

/-- The subtraction of the statements, with the 256 added before the subtrahend is taken off. -/
theorem differenceByte_toNat_eq (a b : Byte) : (differenceByte a b).toNat = (a.toNat + 256 - b.toNat) % 256 := by
  have := b.isLt
  rw [differenceByte_toNat]
  omega

/-! ## Control flow -/

/-- Settles O20, by the equation of 0NNN. -/
theorem sysIsNoOp : Obligations.SysIsNoOp := fun nnn s => exec_sys s nnn

/-- Settles O22: the sum of a 12-bit and an 8-bit value. -/
theorem jumpV0AddsTheOffset : Obligations.JumpV0AddsTheOffset := by
  intro nnn s
  have htarget := jumpV0Target_toNat nnn (s.reg 0)
  have hbound : nnn.toNat + (s.reg 0).toNat ≤ 0x10FE := by
    have := nnn.isLt
    have := (s.reg 0).isLt
    omega
  exact ⟨_, exec_jpV0 s nnn, htarget, htarget.trans_le hbound, pcOnly_setPC s _⟩

/-- Settles O25: the call leaves its return address on top of a live stack, and the return takes it from there. -/
theorem returnResumesAfterTheCall : Obligations.ReturnResumesAfterTheCall := by
  intro nnn s t u hbelow hcall hstack hSP
  have hroom : s.stackFull = false := (State.stackFull_eq_false s).mpr hbelow
  obtain rfl : (s.push s.PC).setPC (addrOperand nnn) = t :=
    Host.Outcome.next.inj ((exec_call_of_not_full s nnn hroom).symm.trans hcall)
  have hdepth : u.SP.val = s.SP.val + 1 := (congrArg Fin.val hSP).trans (State.push_depth s s.PC hroom)
  have hlive : u.stackEmpty = false := (State.stackEmpty_eq_false u).mpr (by omega)
  have htop : u.top = s.PC := by
    calc u.top
        _ = (s.push s.PC).top := by simp only [State.top, hstack, hSP, State.setPC_stack, State.setPC_SP]
        _ = s.PC := State.top_push s s.PC hroom
  have hpop : u.pop.SP.val = s.SP.val := by rw [State.pop_depth u hlive, hdepth, Nat.add_sub_cancel]
  exact ⟨u.pop.setPC u.top, exec_ret_of_not_empty u hlive, htop, Fin.ext hpop⟩

/-- Settles O27: 5XY0 and 9XY0 skip on opposite outcomes of one comparison. -/
theorem registerSkipsCompare : Obligations.RegisterSkipsCompare := by
  refine fun x y s => ⟨?_, ?_⟩
  · exact ⟨_, exec_seReg s x y, by simp only [State.skipIf_PC, beq_iff_eq], pcOnly_skipIf s _⟩
  · exact ⟨_, exec_sneReg s x y, by simp only [State.skipIf_PC, bne_iff_ne, ne_eq, ite_not], pcOnly_skipIf s _⟩

/-! ## Registers and ALU -/

/-- Settles O30: each is one write to VX of a value whose bits the library gives. -/
theorem copyAndLogicWriteOneRegister : Obligations.CopyAndLogicWriteOneRegister := by
  refine fun x y s => ⟨?_, ?_, ?_, ?_⟩
  · exact ⟨_, exec_ldReg s x y, State.reg_setReg_self s x _, regsOnly_setReg s x _⟩
  · exact ⟨_, exec_or s x y, fun b => by rw [State.reg_setReg_self, BitVec.getLsbD_or], regsOnly_setReg s x _⟩
  · exact ⟨_, exec_and s x y, fun b => by rw [State.reg_setReg_self, BitVec.getLsbD_and], regsOnly_setReg s x _⟩
  · exact ⟨_, exec_xor s x y, fun b => by rw [State.reg_setReg_self, BitVec.getLsbD_xor], regsOnly_setReg s x _⟩

/-- A result and a flag: the value of VX unless X = F, the flag in VF, and the frame. -/
theorem setRegFlag_spec (s : State) (x : RegSel) (r : Byte) (b : Bool) {v : Nat} {f : Byte} (hr : r.toNat = v)
    (hf : flagByte b = f) :
    (x ≠ 0xF → ((s.setRegFlag x r b).reg x).toNat = v) ∧ (s.setRegFlag x r b).reg 0xF = f ∧
      RegsOnly [x, 0xF] s (s.setRegFlag x r b) := by
  refine ⟨fun hx => ?_, ?_, regsOnly_setRegFlag s x r b⟩
  · rw [State.reg_setRegFlag_dest s r b hx, hr]
  · rw [State.reg_setRegFlag_vf, hf]

/-- Settles O31: the sum and its carry, written in that order. -/
theorem addRegistersSetsCarry : Obligations.AddRegistersSetsCarry := fun x y s =>
  ⟨_, exec_addReg s x y, setRegFlag_spec s x _ _ (sumByte_toNat _ _) (flagByte_decide _)⟩

/-- Settles O32: 8XY5 and 8XY7 are one subtraction with the operands exchanged. -/
theorem subtractionsSetNoBorrow : Obligations.SubtractionsSetNoBorrow := fun x y s =>
  ⟨⟨_, exec_sub s x y, setRegFlag_spec s x _ _ (differenceByte_toNat_eq _ _) (flagByte_decide _)⟩,
    ⟨_, exec_subn s x y, setRegFlag_spec s x _ _ (differenceByte_toNat_eq _ _) (flagByte_decide _)⟩⟩

/-- Settles O33: the flags are bits 0 and 7, and the equations do not mention VY. -/
theorem shiftsMoveOneBitIntoFlag : Obligations.ShiftsMoveOneBitIntoFlag := by
  intro x y s
  have hright : flagByte (shiftedOutRight (s.reg x)) = if (s.reg x).getLsbD 0 then 1 else 0 := by
    rw [shiftedOutRight_eq, flagByte]
  have hleft : flagByte (shiftedOutLeft (s.reg x)) = if (s.reg x).getLsbD 7 then 1 else 0 := by
    rw [shiftedOutLeft_eq, flagByte]
  refine ⟨?_, ?_, fun y' => ⟨?_, ?_⟩⟩
  · exact ⟨_, exec_shr s x y, setRegFlag_spec s x _ _ (halfByte_toNat _) hright⟩
  · exact ⟨_, exec_shl s x y, setRegFlag_spec s x _ _ (doubleByte_toNat _) hleft⟩
  · rw [exec_shr, exec_shr]
  · rw [exec_shl, exec_shl]

/-- Settles O34: the draw is masked before it is written, and only the counter changes beside VX. -/
theorem randomIsMaskedDraw : Obligations.RandomIsMaskedDraw := by
  intro x nn s
  have hvalue : ((s.setReg x (s.drawn &&& nn)).consumeDraw).reg x = s.drawn &&& nn := State.reg_setReg_self s x _
  refine ⟨_, exec_rnd s x nn, hvalue, fun b hb => ?_, rfl, fun k hk => State.reg_setReg_of_ne s _ hk,
    sameMemory_of_eq rfl rfl, rfl⟩
  rw [hvalue, BitVec.getLsbD_and, hb, Bool.and_false]

/-! ## I, timers and keys -/

/-- Settles O36: both are one write of I. -/
theorem indexAddAndGlyphAddress : Obligations.IndexAddAndGlyphAddress := by
  refine fun x s => ⟨?_, ?_⟩
  · refine ⟨_, exec_addIVx s x, ?_, iOnly_setI s _⟩
    rw [State.setI_I, BitVec.toNat_add, indexOperand_toNat]
  · have hglyph := glyphOperand_toNat (s.reg x)
    have hbound : 5 * ((s.reg x).toNat % 16) ≤ 0x004B := by omega
    exact ⟨_, exec_ldFVx s x, hglyph, hglyph.trans_le hbound, iOnly_setI s _⟩

/-- Settles O44: one write each of VX, DT and ST. -/
theorem timerMovesCopyOneByte : Obligations.TimerMovesCopyOneByte := by
  refine fun x s => ⟨?_, ?_, ?_⟩
  · exact ⟨_, exec_ldVxDt s x, State.reg_setReg_self s x s.DT, regsOnly_setReg s x s.DT⟩
  · exact ⟨_, exec_ldDtVx s x, rfl, rfl, sameMemory_of_eq rfl rfl⟩
  · exact ⟨_, exec_ldStVx s x, rfl, rfl, sameMemory_of_eq rfl rfl⟩

/-- Settles O45: EX9E and EXA1 skip on opposite levels of one key. -/
theorem keySkipsTestTheLatch : Obligations.KeySkipsTestTheLatch := by
  intro x k s hk
  have hlevel := State.keyDown_keyOperand s hk
  refine ⟨?_, ?_⟩
  · exact ⟨_, exec_skp s x, by rw [State.skipIf_PC, hlevel], pcOnly_skipIf s _⟩
  · refine ⟨_, exec_sknp s x, ?_, pcOnly_skipIf s _⟩
    rw [State.skipIf_PC, hlevel]
    cases s.key[k] <;> rfl

/-- Settles O46: FX0A enters the sub-state with every edge cleared, and takes back the +2 of the fetch. -/
theorem waitForKeyEntersTheSubState : Obligations.WaitForKeyEntersTheSubState := by
  intro x s
  have hedges : ∀ k : Fin 16, ((s.enterAwait x).setPC (s.PC - 2)).kedge[k] = false := by simp
  exact ⟨_, exec_ldVxK s x, rfl, hedges, rfl, sameMemory_of_eq rfl rfl, rfl⟩

end Sys2Proof.Machine
end

section
/-! The statements on FX33, FX55 and FX65, from the equations above: first what a store of bytes at I changes and reads back. -/

namespace Sys2Proof.Machine

/-- A store changes only the bytes it covers. -/
theorem bytesOnly_storeBytes (s : State) (a : Nat) (vs : List Byte) : BytesOnly a vs.length s (s.storeBytes a vs) :=
  ⟨rfl, fun _ hb => State.readByte_storeBytes_outside s vs hb⟩

/-- Settles O37, by whether I + 2 lies in memory. -/
theorem bcdStoresThreeDigits : Obligations.BcdStoresThreeDigits := by
  refine fun x s => ⟨fun hfits => ?_, fun hpast => ?_⟩
  · have hrange : s.I.toNat + (bcdDigits (s.reg x)).length ≤ memSize := hfits
    have hlt := (s.reg x).isLt
    refine ⟨_, exec_ldBVx_of_fits (rangeError_of_fits hrange), bytesOnly_storeBytes s _ _, fun hwf => ?_⟩
    have hread : ∀ k (hk : k < 3), (s.storeBytes s.I.toNat (bcdDigits (s.reg x))).readByte (s.I.toNat + k) =
        (bcdDigits (s.reg x))[k]'hk := fun k hk => State.readByte_storeBytes_inside s _ hwf hrange hk
    refine ⟨?_, ?_, ?_⟩
    · have h0 := hread 0 (by decide)
      rw [Nat.add_zero] at h0
      rw [h0]
      exact Nat.mod_eq_of_lt (by omega)
    · rw [hread 1 (by decide)]
      exact Nat.mod_eq_of_lt (by omega)
    · rw [hread 2 (by decide)]
      exact Nat.mod_eq_of_lt (by omega)
  · exact exec_ldBVx_of_rangeError (rangeError_of_past (by decide) (Nat.lt_succ_of_le hpast))

/-- Settles O38, by whether I + X lies in memory. -/
theorem blockStoreWritesRegisters : Obligations.BlockStoreWritesRegisters := by
  refine fun x s => ⟨fun hfits => ?_, fun hpast => ?_⟩
  · have hlen := State.blockRegs_length s x
    have hrange : s.I.toNat + (s.blockRegs x).length ≤ memSize := hlen ▸ hfits
    have hbytes : BytesOnly s.I.toNat (blockCount x) s (s.storeBytes s.I.toNat (s.blockRegs x)) :=
      hlen ▸ bytesOnly_storeBytes s _ _
    refine ⟨_, exec_ldIVx_of_fits (rangeError_of_fits hfits), hbytes, fun hwf k hk => ?_⟩
    have hlt : k.toNat < (s.blockRegs x).length := hlen ▸ Nat.lt_succ_of_le hk
    rw [State.readByte_storeBytes_inside s _ hwf hrange hlt, State.blockRegs_getElem s x hlt k.isLt, State.reg]
  · exact exec_ldIVx_of_rangeError (rangeError_of_past (Nat.succ_pos _) (Nat.lt_succ_of_le hpast))

/-- Settles O39, by whether I + X lies in memory. -/
theorem blockLoadReadsRegisters : Obligations.BlockLoadReadsRegisters := by
  refine fun x s => ⟨fun hfits => ?_, fun hpast => ?_⟩
  · exact ⟨_, exec_ldVxI_of_fits (rangeError_of_fits hfits), State.blockLoaded_getElem s x, sameMemory_of_eq rfl rfl, rfl⟩
  · exact exec_ldVxI_of_rangeError (rangeError_of_past (Nat.succ_pos _) (Nat.lt_succ_of_le hpast))

/-- Settles O40: the load of O39 reads back the bytes of O38, the memory of a legal state being canonical. -/
theorem blockStoreThenLoadRestoresRegisters : Obligations.BlockStoreThenLoadRestoresRegisters := by
  intro x s t u hlegal hfits hstore hmem hcfg hI
  obtain ⟨t', hstore', ⟨ht', -⟩, hstored⟩ := (blockStoreWritesRegisters x s).1 hfits
  obtain rfl : t' = t := Host.Outcome.next.inj (hstore'.symm.trans hstore)
  have hIs : u.I = s.I := hI.trans (by rw [ht'])
  obtain ⟨v, hload, hloaded, -⟩ := (blockLoadReadsRegisters x u).1 (hIs ▸ hfits)
  refine ⟨v, hload, fun k hk => ?_⟩
  rw [hloaded, if_pos hk, hIs, State.readByte_congr hmem hcfg, hstored hlegal.memory k hk]

end Sys2Proof.Machine
end

section
/-! The statements on who writes what, on PC and on the step cycle, from the effects of the instructions. -/

namespace Sys2Proof.Machine

/-! ## Who writes what -/

/-- Settles O17: only a register write, a draw and a sprite change V registers. -/
theorem registersWrittenOnlyAsListed : Obligations.RegistersWrittenOnlyAsListed := by
  intro i s t hexec k hk
  cases Effect.of_exec hexec with
  | regs V hV => exact hV k hk
  | draw x nn v => exact State.reg_setReg_of_ne s v (List.ne_of_not_mem_cons hk)
  | sprite x y n d v => exact State.reg_setReg_of_ne (s.setDisp d) v (List.ne_of_not_mem_cons hk)
  | _ => rfl

/-- Settles O18: each effect changes one item, beside PC and the registers, and carries the instructions it belongs to. -/
theorem stateItemsWrittenOnlyAsListed : Obligations.StateItemsWrittenOnlyAsListed := by
  intro i s t hexec
  cases Effect.of_exec hexec with
  | setI v hi => simp [State.readByte, hi]
  | store vs hi hfits => simp [hi]
  | _ => simp [State.readByte]

/-- An instruction that does not write PC leaves it at the post-fetch value. -/
theorem exec_PC_of_not_writesPC {i : Instr} {s t : State} (hi : writesPC i = false) (hexec : exec i s = .next t) :
    t.PC = s.PC := by
  cases Effect.of_exec hexec with
  | setPC v hw => exact absurd (hw.symm.trans hi) (by decide)
  | call | ret | await => exact absurd hi (by simp [writesPC])
  | _ => rfl

/-! ## The step that fetches -/

theorem readyToFetch_iff {s : State} : ReadyToFetch s ↔ s.run = .running ∧ s.await = none ∧ s.fetchError = none := by
  rw [ReadyToFetch, State.fetchError_eq_none]

/-- A step that fetches an instruction answers what that instruction does in the post-fetch state. -/
theorem step_eq_exec_fetched {s : State} {i : Instr} (hready : ReadyToFetch s) (hdecode : decodeWord (opcodeAt s) = .ok i) :
    step s = exec i s.fetched := stepRunsTheDecodedInstruction s i hready hdecode

/-- The address of the executing instruction, recovered from the post-fetch PC (40_step_cycle.md R112). -/
theorem State.fetched_instrAddr (s : State) : s.fetched.instrAddr = s.PC := BitVec.add_sub_cancel s.PC 2

/-- Settles O7: the fetched word does not decode, so the step raises UnknownOpcode past the fetch and does no more. -/
theorem unknownOpcodeIsNoOp : Obligations.UnknownOpcodeIsNoOp := by
  intro s hready hunknown
  rw [step_of_readyToFetch hready, execWord, decodeWord_of_unknownWord hunknown]
  rfl

/-- Settles O10, by the cases of a step. -/
theorem everyStepAnswersANextState : Obligations.EveryStepAnswersANextState := by
  intro s
  rcases step_cases s with ⟨-, h⟩ | ⟨-, x, -, h⟩ | ⟨-, -, a, -, h⟩ | ⟨-, -, -, i, -, h⟩ | ⟨-, -, -, e, -, h⟩
  · exact ⟨_, h⟩
  · exact ⟨_, h⟩
  · exact ⟨_, h⟩
  · obtain ⟨t, ht, -⟩ := exec_effect i s.fetched
    exact ⟨t, h.trans ht⟩
  · exact ⟨_, h⟩

/-- Settles O15: each branch of a step overwrites the diagnostic before anything else is done. -/
theorem stepDoesNotReadTheDiagnostic : Obligations.StepDoesNotReadTheDiagnostic := by
  intro s d
  by_cases hrun : s.run = .running
  · rcases Option.eq_none_or_eq_some s.await with hawait | ⟨x, hawait⟩
    · calc step { s with diag := d }
          _ = fetchAndExec { s with diag := d } := step_of_ready hrun hawait
          _ = fetchAndExec s := rfl
          _ = step s := (step_of_ready hrun hawait).symm
    · exact (step_of_awaiting (s := { s with diag := d }) hrun hawait).trans (step_of_awaiting hrun hawait).symm
  · exact (step_of_not_running (s := { s with diag := d }) hrun).trans (step_of_not_running hrun).symm

/-- A skip moves PC by 2 or not at all. -/
theorem skipIf_PC_cases (s : State) (c : Bool) : (s.skipIf c).PC = s.PC + 2 ∨ (s.skipIf c).PC = s.PC := by
  cases c
  · exact .inr rfl
  · exact .inl rfl

/-- The post-fetch PC after a skip. -/
theorem fetched_skipIf_PC (s : State) (c : Bool) :
    (s.fetched.skipIf c).PC = s.PC + 4 ∨ (s.fetched.skipIf c).PC = s.PC + 2 := by
  rcases skipIf_PC_cases s.fetched c with h | h
  · exact .inl (h.trans (BitVec.add_assoc s.PC 2 2))
  · exact .inr h

/-- Settles O19, by the instruction: the moves of PC are those of the equations, and every other instruction leaves the post-fetch
PC. -/
theorem programCounterMovesOnlyAsListed : Obligations.ProgramCounterMovesOnlyAsListed := by
  intro s t i hready hdecode hstep
  have hexec : exec i s.fetched = .next t := (step_eq_exec_fetched hready hdecode).symm.trans hstep
  cases i with
  | jp nnn =>
    cases hexec
    rfl
  | jpV0 nnn =>
    cases hexec
    rfl
  | seImm | sneImm | seReg | sneReg | skp | sknp =>
    cases hexec
    exact fetched_skipIf_PC s _
  | ldVxK x =>
    cases hexec
    exact State.fetched_instrAddr s
  | call nnn =>
    cases hfull : s.fetched.stackFull with
    | false =>
      have hbelow : s.SP.val < s.cfg.stackDepth := (State.stackFull_eq_false _).mp hfull
      cases (exec_call_of_not_full s.fetched nnn hfull).symm.trans hexec
      exact ⟨.inl rfl, fun _ => rfl, fun h => absurd h hbelow.ne⟩
    | true =>
      have habove : s.cfg.stackDepth ≤ s.SP.val := (State.stackFull_eq_true _).mp hfull
      cases (exec_call_of_full s.fetched nnn hfull).symm.trans hexec
      exact ⟨.inr rfl, fun h => absurd h habove.not_gt, fun _ => rfl⟩
  | ret =>
    cases hempty : s.fetched.stackEmpty with
    | false =>
      have hlive : 0 < s.SP.val := (State.stackEmpty_eq_false _).mp hempty
      cases (exec_ret_of_not_empty s.fetched hempty).symm.trans hexec
      refine ⟨fun k hk => ?_, fun h => absurd h hlive.ne'⟩
      simp [State.top_eq_getElem, hk]
    | true =>
      have hzero : s.SP.val = 0 := (State.stackEmpty_eq_true _).mp hempty
      cases (exec_ret_of_empty s.fetched hempty).symm.trans hexec
      exact ⟨fun k hk => absurd (hk.symm.trans hzero) (Nat.succ_ne_zero _), fun _ => rfl⟩
  | _ => exact exec_PC_of_not_writesPC rfl hexec

/-! ## The awaiting-key sub-state -/

/-- With an edge at `k` and none below it, `k` is the least edge. -/
theorem leastEdge_of_least {e : Vector Bool 16} {k : Fin 16} (hk : e[k] = true) (hmin : ∀ j : Fin 16, j < k → e[j] = false) :
    leastEdge e = some (BitVec.ofNat 4 k.val) := by
  have hfirst : e.toList.findIdx? (fun b => b) = some k.val := by
    rw [List.findIdx?_eq_some_iff_getElem]
    refine ⟨by simp, by simpa using hk, fun j hj => ?_⟩
    have hfalse := hmin ⟨j, hj.trans k.isLt⟩ hj
    simpa using hfalse
  rw [leastEdge, hfirst, Option.map_some]

/-- With no edge there is no least one. -/
theorem leastEdge_of_none {e : Vector Bool 16} (h : ∀ k : Fin 16, e[k] = false) : leastEdge e = none := by
  cases hleast : leastEdge e with
  | none => rfl
  | some k =>
    have hedge := (leastEdge_eq_some hleast).1
    exact absurd (hedge.symm.trans (h ⟨k.toNat, k.isLt⟩)) (by decide)

/-- Settles O11, by whether an edge is recorded. -/
theorem awaitStepCompletesOnTheLeastEdge : Obligations.AwaitStepCompletesOnTheLeastEdge := by
  intro s x hrun hawait
  have hstep := step_of_awaiting hrun hawait
  refine ⟨fun hnone => ?_, fun k hk hmin => ?_⟩
  · have hleast : leastEdge (s.raise .none).kedge = none := leastEdge_of_none hnone
    rw [hstep, State.awaitStep, hleast]
    rfl
  · have hleast : leastEdge (s.raise .none).kedge = some (BitVec.ofNat 4 k.val) := leastEdge_of_least hk hmin
    have hvalue : ((BitVec.ofNat 4 k.val).setWidth 8 : Byte).toNat = k.val := by
      simp only [BitVec.toNat_setWidth, BitVec.toNat_ofNat]
      omega
    rw [hstep, State.awaitStep, hleast]
    refine ⟨_, rfl, ?_, rfl, fun j => by simp, rfl, rfl, fun j hj => ?_, sameMemory_of_eq rfl rfl, rfl⟩
    · exact (congrArg BitVec.toNat (State.reg_setReg_self (s.raise .none) x _)).trans hvalue
    · exact State.reg_setReg_of_ne (s.raise .none) _ hj

end Sys2Proof.Machine
end

section
/-! The statements on the host commands, each command said once: what a run-state request, a tick, a press and a load leave of the
state (spec 60_exceptions.md, 70_reset_and_hazards.md). -/

namespace Sys2Proof.Machine

variable {s : State}

/-! ## Run-state requests, ticks and presses -/

theorem requestPause_eq (s : State) : requestPause s = { s with run := if s.run = .running then .paused else s.run } := by
  rcases s with ⟨mem, V, I, PC, stack, SP, disp, DT, ST, key, await, kedge, run, cfg, draws, diag⟩
  cases run <;> rfl

theorem requestResume_eq (s : State) : requestResume s = { s with run := if s.run = .paused then .running else s.run } := by
  rcases s with ⟨mem, V, I, PC, stack, SP, disp, DT, ST, key, await, kedge, run, cfg, draws, diag⟩
  cases run <;> rfl

theorem requestQuit_eq (s : State) : requestQuit s = { s with run := .halted } := by
  rcases s with ⟨mem, V, I, PC, stack, SP, disp, DT, ST, key, await, kedge, run, cfg, draws, diag⟩
  cases run <;> rfl

/-- Settles O49: the three equations above are the table. -/
theorem runStateRequestsFollowTheTable : Obligations.RunStateRequestsFollowTheTable := fun s =>
  ⟨requestPause_eq s, requestResume_eq s, requestQuit_eq s⟩

theorem tickTimers_of_running (h : s.run = .running) :
    tickTimers s = { s with DT := countDown s.DT, ST := countDown s.ST } := by
  simp only [tickTimers, h]

theorem tickTimers_of_not_running (h : s.run ≠ .running) : tickTimers s = s := by
  cases hrun : s.run with
  | running => exact absurd hrun h
  | paused | halted => simp only [tickTimers, hrun]

/-- A press edge is recorded at its own key, beside the edges of before (60_exceptions.md R266). -/
theorem setKey_kedge_getElem (k : Nibble) (p : Bool) (s : State) (j : Fin 16) :
    (setKey k p s).kedge[j] = (s.kedge[j] || (decide (j.val = k.toNat) && s.recordsEdge k p)) := by
  cases hedge : s.recordsEdge k p with
  | false => simp [setKey, hedge]
  | true =>
    by_cases hj : k.toNat = j.val
    · simp [setKey, hedge, hj]
    · have hne : j.val ≠ k.toNat := Ne.symm hj
      simp [setKey, hedge, hj, hne]

/-- Settles O47: the latch is one write, and the edge recorded is of the key that is written. -/
theorem setKeyRecordsPressEdges : Obligations.SetKeyRecordsPressEdges := by
  refine fun k p s => ⟨fun j => ?_, fun j => ?_, rfl⟩
  · simp only [setKey, Fin.getElem_fin, Vector.getElem_set, eq_comm (a := k.toNat)]
  · rw [setKey_kedge_getElem]
    by_cases hj : j.val = k.toNat
    · simp [State.recordsEdge, hj]
    · simp [hj]

/-! ## Ticks from Running -/

theorem applyCommands_cons_next {c : Command} {cs : List Command} {t : State} {r : CommandResult}
    (h : runCommand c s = .next (t, r)) : applyCommands (c :: cs) s = applyCommands cs t := by
  rw [applyCommands, runCommands_cons_next h, applyCommands]
  cases runCommands cs t <;> rfl

theorem runCommand_tickTimers (s : State) : runCommand .tickTimers s = .next ((tickTimers s).withoutDiag, .unit) := rfl

/-- `n` ticks from Running lower both timers by `n`, never below 0, and change nothing else. -/
theorem applyCommands_ticks (n : Nat) (hrun : s.run = .running) :
    ∃ t, applyCommands (List.replicate n .tickTimers) s = .next t ∧ t.DT.toNat = s.DT.toNat - n ∧
      t.ST.toNat = s.ST.toNat - n ∧ t = { s with DT := t.DT, ST := t.ST, diag := t.diag } ∧
      (s.diag = .none → t.diag = .none) := by
  induction n generalizing s with
  | zero => exact ⟨s, rfl, rfl, rfl, rfl, id⟩
  | succ n ih =>
    have htick := runCommand_tickTimers s
    rw [tickTimers_of_running hrun] at htick
    obtain ⟨t, happly, hDT, hST, hframe, hdiag⟩ :=
      ih (s := { s with DT := countDown s.DT, ST := countDown s.ST, diag := .none }) hrun
    refine ⟨t, (applyCommands_cons_next htick).trans happly, ?_, ?_, hframe, fun _ => hdiag rfl⟩
    · rw [hDT, countDown_toNat]
      omega
    · rw [hST, countDown_toNat]
      omega

/-- Settles O48: the sound is on while ST is not yet 0. -/
theorem ticksCountTimersDown : Obligations.TicksCountTimersDown := by
  refine fun n s => ⟨fun hrun => ?_, tickTimers_of_not_running⟩
  obtain ⟨t, happly, hDT, hST, hframe, hdiag⟩ := applyCommands_ticks n hrun
  refine ⟨t, happly, hDT, hST, ?_, hframe, hdiag⟩
  rw [State.soundActive, hST, decide_eq_decide]
  exact Nat.sub_pos_iff_lt

/-! ## Steps that make no progress -/

/-- A fetch fails exactly from 0x0FFF on, and names the lowest address past the end (40_step_cycle.md R117). -/
theorem State.fetchError_eq_some {a : Nat} : s.fetchError = some a ↔ 0x0FFF ≤ s.PC.toNat ∧ a = max s.PC.toNat memSize := by
  rw [State.fetchError, rangeError_eq_some]
  simp only [memSize]
  omega

theorem State.raise_withoutDiag (s : State) (d : Diag) : (s.raise d).withoutDiag = s.withoutDiag := rfl

theorem step_of_fetchError (hrun : s.run = .running) (hawait : s.await = none) (hpc : 0x0FFF ≤ s.PC.toNat) :
    step s = .next (s.raise (.addressError (max s.PC.toNat 4096))) := by
  rw [step_of_ready hrun hawait, fetchAndExec, State.fetchError_eq_some.mpr ⟨hpc, rfl⟩]

/-- Settles O8: the first step() drops a diagnostic the state may carry, and each later one finds the state it leaves. -/
theorem fetchOutOfRangeMakesNoProgress : Obligations.FetchOutOfRangeMakesNoProgress := by
  intro s n hrun hawait hpc
  have hfirst := runCommand_step (step_of_fetchError hrun hawait hpc)
  have hlater := runCommand_step (step_of_fetchError (s := s.withoutDiag) hrun hawait hpc)
  refine ⟨step_of_fetchError hrun hawait hpc, ?_⟩
  rw [List.replicate_succ]
  exact (runCommands_cons_next hfirst).trans (by rw [State.raise_withoutDiag, runCommands_replicate_fixed hlater n]; rfl)

/-- A step or a tick outside Running only drops a diagnostic that the state may carry. -/
theorem runCommand_of_not_running {c : Command} (hrun : s.run ≠ .running) (hc : c.isStepOrTick = true) :
    ∃ r, runCommand c s = .next (s.withoutDiag, r) ∧ (r = .unit ∨ r = .step .none) := by
  cases c with
  | step => exact ⟨_, runCommand_step (t := s.raise .none) (step_of_not_running hrun), .inr rfl⟩
  | tickTimers => exact ⟨.unit, by rw [runCommand_tickTimers, tickTimers_of_not_running hrun], .inl rfl⟩
  | load | setKey | requestPause | requestResume | requestQuit => exact absurd hc (by simp [Command.isStepOrTick])

/-- Settles O9, by induction on the commands. -/
theorem stepsAndTicksAreFrozenUnlessRunning : Obligations.StepsAndTicksAreFrozenUnlessRunning := by
  intro cs
  induction cs with
  | nil => exact fun s _ _ => ⟨s.diag, [], rfl, id, fun r hr => absurd hr List.not_mem_nil⟩
  | cons c cs ih =>
    intro s hrun hall
    rw [List.all_cons, Bool.and_eq_true] at hall
    obtain ⟨r, hc, hr⟩ := runCommand_of_not_running hrun hall.1
    obtain ⟨d, rs, hcs, hd, hrs⟩ := ih s.withoutDiag hrun hall.2
    refine ⟨d, r :: rs, ?_, fun _ => hd rfl, List.forall_mem_cons.mpr ⟨hr, hrs⟩⟩
    rw [runCommands_cons_next hc, hcs]
    rfl

/-! ## Halted -/

theorem requestPause_of_halted (h : s.run = .halted) : requestPause s = s := by simp only [requestPause, h]

theorem requestResume_of_halted (h : s.run = .halted) : requestResume s = s := by simp only [requestResume, h]

theorem requestQuit_of_halted (h : s.run = .halted) : requestQuit s = s := by simp only [requestQuit, h]

/-- In Halted a command changes at most the latch and its edges. -/
theorem runCommand_of_halted {c : Command} {t : State} {r : CommandResult} (hrun : s.run = .halted)
    (h : runCommand c s = .next (t, r)) : t = { s with key := t.key, kedge := t.kedge, diag := .none } := by
  have hnot : s.run ≠ .running := by simp [hrun]
  rcases runCommand_cases h with ⟨u, -, hstep, rfl, -⟩ | ⟨src, u, q, -, hload, rfl, -⟩ |
    ⟨-, ⟨k, p, -, rfl⟩ | ⟨-, rfl⟩ | ⟨-, rfl⟩ | ⟨-, rfl⟩ | ⟨-, rfl⟩⟩
  · cases (step_of_not_running hnot).symm.trans hstep
    rfl
  · rcases load_cases src s with ⟨-, hio⟩ | ⟨_, -, -, hlarge⟩ | ⟨_, -, -, -, hrefused⟩ | ⟨_, -, -, hlive, -⟩
    · cases hio.symm.trans hload
      rfl
    · cases hlarge.symm.trans hload
      rfl
    · cases hrefused.symm.trans hload
    · exact absurd hrun hlive
  · rfl
  · rw [tickTimers_of_not_running hnot]
    rfl
  · rw [requestPause_of_halted hrun]
    rfl
  · rw [requestResume_of_halted hrun]
    rfl
  · rw [requestQuit_of_halted hrun]
    rfl

/-- `u` differs from `s` at most in the latch, its edges and a diagnostic that `s` carries. -/
def LatchOnly (s u : State) : Prop :=
  u = { s with key := u.key, kedge := u.kedge, diag := u.diag } ∧ (s.diag = .none → u.diag = .none)

theorem latchOnly_runCommand {c : Command} {u v : State} {r : CommandResult} (hrun : s.run = .halted) (hu : LatchOnly s u)
    (h : runCommand c u = .next (v, r)) : LatchOnly s v := by
  obtain ⟨hframe, -⟩ := hu
  have hv := runCommand_of_halted (by rw [hframe]; exact hrun) h
  have hdiag : v.diag = .none := by rw [hv]
  refine ⟨?_, fun _ => hdiag⟩
  rw [hdiag, hv]
  exact congrArg (fun w => { w with key := v.key, kedge := v.kedge, diag := .none }) hframe

/-- Settles O50: what one command in Halted leaves is kept by every sequence. -/
theorem haltedIsTerminal : Obligations.HaltedIsTerminal := fun _ s _ hrun happly =>
  applyCommands_invariant (P := LatchOnly s) (fun _ _ _ _ hu h => latchOnly_runCommand hrun hu h) ⟨rfl, id⟩ happly

end Sys2Proof.Machine
end

section
/-! The statements on load, power-on, an unloaded machine and the diagnostic as a result (spec 70_reset_and_hazards.md,
60_exceptions.md R241). -/

namespace Sys2Proof.Machine

/-! ## Load -/

section Load

variable {s : State} {bytes : List Byte}

theorem fontBytes_length (c : Config) : (fontBytes c).length = 80 := c.font.size_toArray

theorem fontBytes_getElem (c : Config) (k : Fin 80) (hk : k.val < (fontBytes c).length) : (fontBytes c)[k.val] = c.font[k] := by
  simp [fontBytes]

/-- The memory after a load is FONT and then the image stored (70_reset_and_hazards.md R285). -/
theorem readByte_loadImage (s : State) (bytes : List Byte) (a : Nat) :
    (s.loadImage bytes).readByte a = ((s.storeBytes fontBase (fontBytes s.cfg)).storeBytes progBase bytes).readByte a := rfl

/-- FONT stored at its place keeps a canonical memory canonical. -/
theorem wf_storeFont (hwf : Memory.wf s.cfg s.mem = true) :
    Memory.wf s.cfg (s.storeBytes fontBase (fontBytes s.cfg)).mem = true :=
  Memory.wf_writeBytes _ hwf (by rw [fontBytes_length]; decide)

theorem wf_loadImage (hwf : Memory.wf s.cfg s.mem = true) (hlen : bytes.length ≤ maxImage) :
    Memory.wf s.cfg (s.loadImage bytes).mem = true :=
  Memory.wf_writeBytes _ (wf_storeFont hwf) (by simp only [memSize, maxImage, progBase] at *; omega)

theorem readByte_loadImage_image (hwf : Memory.wf s.cfg s.mem = true) (hlen : bytes.length ≤ maxImage) {j : Nat}
    (hj : j < bytes.length) : (s.loadImage bytes).readByte (0x200 + j) = bytes[j] :=
  State.readByte_storeBytes_inside (s.storeBytes fontBase (fontBytes s.cfg)) bytes (wf_storeFont hwf)
    (by simp only [memSize, maxImage, progBase] at *; omega) hj

theorem readByte_loadImage_font (hwf : Memory.wf s.cfg s.mem = true) (k : Fin 80) :
    (s.loadImage bytes).readByte k.val = s.cfg.font[k] := by
  have hk : k.val < (fontBytes s.cfg).length := k.isLt.trans_eq (fontBytes_length s.cfg).symm
  have hbelow : k.val < progBase := by simp only [progBase]; omega
  have hread := State.readByte_storeBytes_inside (a := fontBase) s (fontBytes s.cfg) hwf (by rw [fontBytes_length]; decide) hk
  rw [readByte_loadImage, State.readByte_storeBytes_outside _ bytes (.inl hbelow), ← fontBytes_getElem s.cfg k hk, ← hread,
    fontBase, Nat.zero_add]

/-- Neither FONT nor the image: the rest of memory is left. -/
theorem readByte_loadImage_rest {a : Nat} (hfont : 80 ≤ a) (himage : a < 0x200 ∨ 0x200 + bytes.length ≤ a) :
    (s.loadImage bytes).readByte a = s.readByte a := by
  rw [readByte_loadImage, State.readByte_storeBytes_outside _ bytes himage,
    State.readByte_storeBytes_outside s _ (.inr (by rw [fontBytes_length, fontBase, Nat.zero_add]; exact hfont))]

theorem load_of_too_large (hlen : maxImage < bytes.length) : load (some bytes) s = .next (s, .error .imageTooLarge) := by
  simp only [load, if_pos hlen]

theorem load_of_halted (hlen : bytes.length ≤ maxImage) (hrun : s.run = .halted) :
    load (some bytes) s = .refused .loadInHalted := by
  simp only [load, if_neg hlen.not_gt, hrun]

theorem load_of_not_halted (hlen : bytes.length ≤ maxImage) (hrun : s.run ≠ .halted) :
    load (some bytes) s = .next (s.loadImage bytes, .ok) := by
  cases h : s.run with
  | halted => exact absurd h hrun
  | running | paused => simp only [load, if_neg hlen.not_gt, h]

end Load

/-- Settles O51, by the length of the image and whether the machine is Halted. -/
theorem loadInstallsTheImage : Obligations.LoadInstallsTheImage := by
  refine fun bytes s => ⟨rfl, load_of_too_large, load_of_halted, fun hlen hrun => ?_⟩
  refine ⟨s.loadImage bytes, load_of_not_halted hlen hrun,
    fun hwf => ⟨fun j hj => readByte_loadImage_image hwf hlen hj, readByte_loadImage_font hwf⟩,
    fun a hfont himage => readByte_loadImage_rest hfont himage, ?_⟩
  simp [State.loadImage, State.reg]

/-! ## Power-on -/

theorem Memory.unlisted_font (c : Config) (k : Fin 80) : Memory.unlisted c k.val = c.font[k] := by
  simp [Memory.unlisted]

theorem Memory.unlisted_above_font (c : Config) {a : Nat} (h : 80 ≤ a) : Memory.unlisted c a = 0 :=
  dif_neg h.not_gt

/-- Settles O52: an unlisted byte reads as FONT or 0, and the other items are written out in `powerOn`. -/
theorem powerOnHoldsTheResetValues : Obligations.PowerOnHoldsTheResetValues := by
  refine ⟨fun c => ⟨Memory.unlisted_font c, fun a ha => Memory.unlisted_above_font c ha, ?_⟩, Config.reference, rfl, rfl⟩
  have hdark : ∀ y x, Display.pixel (.replicate 32 (.replicate 64 false)) y x = false := Display.pixel_clear
  simp [hdark, State.powerOn, State.reg]

/-! ## A machine resumed without a load -/

/-- The machine at `pc`, Running, with nothing loaded. -/
def unloadedAt (c : Config) (pc : Word) : State := { State.powerOn c with run := .running, PC := pc }

/-- Past FONT an unloaded machine fetches 0x0000, which is SYS 000: a no-op (decision D7). -/
theorem step_unloadedAt (c : Config) {pc : Word} (hlow : 80 ≤ pc.toNat) (hhigh : pc.toNat < 0x0FFF) :
    step (unloadedAt c pc) = .next (unloadedAt c (pc + 2)) := by
  have hready : ReadyToFetch (unloadedAt c pc) := ⟨rfl, rfl, hhigh⟩
  have hzero : ∀ a, 80 ≤ a → (unloadedAt c pc).readByte a = 0 := fun a ha => Memory.unlisted_above_font c ha
  have hword : (unloadedAt c pc).readByte pc.toNat ++ (unloadedAt c pc).readByte (pc.toNat + 1) = (0x0000 : Word) := by
    rw [hzero _ hlow, hzero _ (hlow.trans (Nat.le_succ _))]
    rfl
  have hdecode : decodeWord (opcodeAt (unloadedAt c pc)) = .ok (.sys 0) :=
    decodeWord_of_encode_eq (i := .sys 0) hword.symm rfl
  exact step_eq_exec_fetched hready hdecode

/-- `k` steps of an unloaded machine that stay in memory. -/
theorem runCommands_unloaded (c : Config) (k : Nat) (hk : k ≤ 1792) :
    runCommands (List.replicate k .step) (unloadedAt c 0x200) =
      .next (unloadedAt c (BitVec.ofNat 16 (0x200 + 2 * k)), List.replicate k (.step .none)) := by
  induction k with
  | zero => rfl
  | succ k ih =>
    have hpc : (BitVec.ofNat 16 (0x200 + 2 * k)).toNat = 0x200 + 2 * k := by
      rw [BitVec.toNat_ofNat]
      omega
    have hnext : BitVec.ofNat 16 (0x200 + 2 * k) + 2 = BitVec.ofNat 16 (0x200 + 2 * (k + 1)) :=
      (BitVec.ofNat_add (0x200 + 2 * k) 2).symm
    have hstep := runCommand_step (step_unloadedAt c (pc := BitVec.ofNat 16 (0x200 + 2 * k)) (by omega) (by omega))
    rw [hnext] at hstep
    rw [List.replicate_succ', List.replicate_succ']
    exact runCommands_append_next (ih (by omega)) (runCommands_cons_next hstep)

/-- At 0x1000 every step returns the AddressError again. -/
theorem runCommands_unloaded_end (c : Config) (k : Nat) :
    runCommands (List.replicate k .step) (unloadedAt c 0x1000) =
      .next (unloadedAt c 0x1000, List.replicate k (.step (.addressError 0x1000))) := by
  have hpast : 0x0FFF ≤ (0x1000 : Word).toNat := by decide
  have hstep : step (unloadedAt c 0x1000) = .next ((unloadedAt c 0x1000).raise (.addressError 0x1000)) :=
    step_of_fetchError rfl rfl hpast
  have hfixed : runCommand .step (unloadedAt c 0x1000) = .next (unloadedAt c 0x1000, .step (.addressError 0x1000)) :=
    runCommand_step hstep
  exact runCommands_replicate_fixed hfixed k

/-- Settles O53: the resume, then the steps that stay in memory, then those at the end. -/
theorem unloadedMachineRunsNoOpsToTheEnd : Obligations.UnloadedMachineRunsNoOpsToTheEnd := by
  intro c
  have hresume : runCommand .requestResume (State.powerOn c) = .next (unloadedAt c 0x200, .unit) := rfl
  refine ⟨fun k hk => ?_, fun k => ?_⟩
  · rw [runCommands_cons_next hresume, runCommands_unloaded c k hk]
    rfl
  · have hrun := runCommands_append_next (runCommands_unloaded c 1792 le_rfl) (runCommands_unloaded_end c k)
    rw [runCommands_cons_next hresume, List.replicate_add, hrun]
    rfl

/-! ## The diagnostic as a result -/

section Diagnostic

variable {s : State}

theorem runCommand_load_withDiag (src : ByteSource) (s : State) (d : Diag) :
    runCommand (.load src) { s with diag := d } = runCommand (.load src) s := by
  rcases load_cases src s with ⟨rfl, -⟩ | ⟨bytes, rfl, hlen, h⟩ | ⟨bytes, rfl, hlen, hrun, h⟩ |
    ⟨bytes, rfl, hlen, hrun, h⟩
  · rfl
  · rw [runCommand, runCommand, h, load_of_too_large hlen]
    rfl
  · rw [runCommand, runCommand, h, load_of_halted (s := { s with diag := d }) hlen hrun]
  · rw [runCommand, runCommand, h, load_of_not_halted (s := { s with diag := d }) hlen hrun]
    rfl

theorem tickTimers_withDiag (s : State) (d : Diag) :
    (tickTimers { s with diag := d }).withoutDiag = (tickTimers s).withoutDiag := by
  by_cases hrun : s.run = .running
  · rw [tickTimers_of_running hrun, tickTimers_of_running (s := { s with diag := d }) hrun]
    rfl
  · rw [tickTimers_of_not_running hrun, tickTimers_of_not_running (s := { s with diag := d }) hrun]
    rfl

/-- No command reads a diagnostic that the state before it carries. -/
theorem runCommand_withDiag (c : Command) (s : State) (d : Diag) : runCommand c { s with diag := d } = runCommand c s := by
  cases c with
  | load src => exact runCommand_load_withDiag src s d
  | setKey k p => rfl
  | step => rw [runCommand, runCommand, stepCommand, stepCommand, stepDoesNotReadTheDiagnostic s d]
  | tickTimers => rw [runCommand_tickTimers, runCommand_tickTimers, tickTimers_withDiag]
  | requestPause =>
    rw [runCommand, runCommand, requestPause_eq, requestPause_eq]
    rfl
  | requestResume =>
    rw [runCommand, runCommand, requestResume_eq, requestResume_eq]
    rfl
  | requestQuit =>
    rw [runCommand, runCommand, requestQuit_eq, requestQuit_eq]
    rfl

/-- A command hands back a state without a diagnostic. -/
theorem runCommand_diag {c : Command} {t : State} {r : CommandResult} (h : runCommand c s = .next (t, r)) : t.diag = .none := by
  rcases runCommand_cases h with ⟨u, -, -, rfl, -⟩ | ⟨src, u, q, -, -, rfl, -⟩ |
    ⟨-, ⟨k, p, -, rfl⟩ | ⟨-, rfl⟩ | ⟨-, rfl⟩ | ⟨-, rfl⟩ | ⟨-, rfl⟩⟩
  all_goals rfl

/-- Only `step()` returns a diagnostic. -/
theorem eq_step_of_runCommand_step_result {c : Command} {t : State} {d : Diag} (h : runCommand c s = .next (t, .step d)) :
    c = .step := by
  rcases runCommand_cases h with ⟨u, hc, -⟩ | ⟨src, u, q, -, -, -, hr⟩ | ⟨hr, -⟩
  · exact hc
  · exact nomatch hr
  · exact nomatch hr

end Diagnostic

/-- Settles O54, a part each. -/
theorem diagnosticIsOnlyTheResultOfItsStep : Obligations.DiagnosticIsOnlyTheResultOfItsStep :=
  ⟨fun _ _ _ _ h => runCommand_diag h, fun _ _ h => runCommand_step h, fun _ _ _ _ h => eq_step_of_runCommand_step_result h,
    runCommand_withDiag⟩

/-- An instruction raises one of its own diagnostics or leaves the diagnostic output as it is. -/
theorem exec_diag {i : Instr} {s t : State} (h : exec i s = .next t) : t.diag = s.diag ∨ Raises s i t.diag := by
  cases Effect.of_exec h with
  | raise hraises => exact .inr hraises
  | _ => exact .inl rfl

/-- The completion test raises nothing. -/
theorem awaitStep_diag (s : State) (x : RegSel) : (s.awaitStep x).diag = s.diag := by
  rcases State.awaitStep_cases s x with ⟨-, h⟩ | ⟨k, -, h⟩
  · rw [h]
  · rw [h]
    rfl

/-- Settles O55, by the cases of a step; the instructions raise what `Raises` lists. -/
theorem diagnosticsRaisedOnlyAsListed : Obligations.DiagnosticsRaisedOnlyAsListed := by
  intro s t hstep
  rcases step_cases s with ⟨-, h⟩ | ⟨-, x, -, h⟩ | ⟨hrun, hawait, a, hfetch, h⟩ | ⟨hrun, hawait, hfetch, i, hdecode, h⟩ |
    ⟨hrun, hawait, hfetch, e, hdecode, h⟩
  · cases h.symm.trans hstep
    exact .inl ⟨rfl, rfl⟩
  · cases h.symm.trans hstep
    have hnone : ((s.raise .none).awaitStep x).diag = .none := awaitStep_diag _ x
    exact .inl ⟨hnone, congrArg Diag.code hnone⟩
  · cases h.symm.trans hstep
    obtain ⟨hpc, rfl⟩ := State.fetchError_eq_some.mp hfetch
    exact .inr (.inr (.inr (.inr (.inl ⟨hrun, hawait, hpc, rfl, rfl⟩))))
  · have hready : ReadyToFetch s := readyToFetch_iff.mpr ⟨hrun, hawait, hfetch⟩
    have hdecode : decodeWord (opcodeAt s) = .ok i := hdecode
    rcases exec_diag (h.symm.trans hstep) with hnone | hraises
    · exact .inl ⟨hnone, congrArg Diag.code hnone⟩
    · generalize t.diag = d at hraises
      cases hraises with
      | overflow nnn =>
        rw [State.fetched_instrAddr]
        exact .inr (.inr (.inl ⟨hready, ⟨nnn, hdecode⟩, rfl, rfl⟩))
      | underflow =>
        rw [State.fetched_instrAddr]
        exact .inr (.inr (.inr (.inl ⟨hready, hdecode, rfl, rfl⟩)))
      | address hi =>
        refine .inr (.inr (.inr (.inr (.inr ⟨hready, ?_, rfl, rfl⟩))))
        rw [hdecode]
        simpa only [AccessesMemory, Except.ok.injEq] using hi
  · cases h.symm.trans hstep
    have hready : ReadyToFetch s := readyToFetch_iff.mpr ⟨hrun, hawait, hfetch⟩
    exact .inr (.inl ⟨hready, (decodeWord_eq_error hdecode).2, rfl, rfl⟩)

end Sys2Proof.Machine
end

section
/-! Stack slots at or above SP are dead (spec 10_state.md R39): no instruction reads them. -/

namespace Sys2Proof.Machine

/-- The instructions that use the call stack. -/
def usesStack : Instr → Bool
  | .call _ | .ret => true
  | _ => false

/-- A check of a range of memory and what follows it run the same beside any stack, if neither uses the stack. -/
theorem exec_withStack_of_rangeChecked {i : Instr} {count : State → Nat} {f : State → State} {s t : State}
    (hfits : ∀ s, rangeError s.I.toNat (count s) = none → exec i s = .next (f s))
    (hfails : ∀ s a, rangeError s.I.toNat (count s) = some a → exec i s = .next (s.raise (.addressError a)))
    (stack' : Vector Word 16) (hcount : count { s with stack := stack' } = count s)
    (hf : f { s with stack := stack' } = { f s with stack := stack' }) (hexec : exec i s = .next t) :
    exec i { s with stack := stack' } = .next { t with stack := stack' } := by
  cases hr : rangeError s.I.toNat (count s) with
  | none =>
    cases (hfits s hr).symm.trans hexec
    rw [hfits _ (hcount ▸ hr), hf]
  | some a =>
    cases (hfails s a hr).symm.trans hexec
    exact hfails _ a (hcount ▸ hr)

/-- An instruction that does not use the stack runs the same beside any stack. -/
theorem exec_withStack {i : Instr} (hi : usesStack i = false) {s t : State} (stack' : Vector Word 16)
    (hexec : exec i s = .next t) : exec i { s with stack := stack' } = .next { t with stack := stack' } := by
  cases i with
  | call | ret => exact absurd hi (by simp [usesStack])
  | drw x y n =>
    exact exec_withStack_of_rangeChecked (fun _ => exec_drw_of_fits) (fun _ _ => exec_drw_of_rangeError) stack' rfl rfl hexec
  | ldBVx x =>
    exact exec_withStack_of_rangeChecked (fun _ => exec_ldBVx_of_fits) (fun _ _ => exec_ldBVx_of_rangeError) stack' rfl rfl hexec
  | ldIVx x =>
    exact exec_withStack_of_rangeChecked (fun _ => exec_ldIVx_of_fits) (fun _ _ => exec_ldIVx_of_rangeError) stack' rfl rfl hexec
  | ldVxI x =>
    exact exec_withStack_of_rangeChecked (fun _ => exec_ldVxI_of_fits) (fun _ _ => exec_ldVxI_of_rangeError) stack' rfl rfl hexec
  | _ =>
    cases hexec
    rfl

/-- Such an instruction leaves the stack and SP. -/
theorem exec_keeps_stack {i : Instr} (hi : usesStack i = false) {s t : State} (hexec : exec i s = .next t) :
    t.stack = s.stack ∧ t.SP = s.SP := by
  cases Effect.of_exec hexec with
  | call | ret => exact absurd hi (by simp [usesStack])
  | _ => exact ⟨rfl, rfl⟩

/-- The completion test of FX0A runs the same beside any stack. -/
theorem awaitStep_withStack (s : State) (x : RegSel) (stack' : Vector Word 16) :
    State.awaitStep { s with stack := stack' } x = { s.awaitStep x with stack := stack' } := by
  simp only [State.awaitStep]
  cases leastEdge s.kedge <;> rfl

theorem awaitStep_keeps_stack (s : State) (x : RegSel) : (s.awaitStep x).stack = s.stack ∧ (s.awaitStep x).SP = s.SP := by
  rcases State.awaitStep_cases s x with ⟨-, h⟩ | ⟨k, -, h⟩
  · rw [h]
    exact ⟨rfl, rfl⟩
  · rw [h]
    exact ⟨rfl, rfl⟩

/-- `stack'` holds the live entries of `s`. -/
def SameLiveStack (s : State) (stack' : Vector Word 16) : Prop := ∀ k : Fin 16, k.val < s.SP.val → stack'[k] = s.stack[k]

section DeadSlots

variable {s t : State} {stack' : Vector Word 16}

/-- A push writes the same slot of both stacks, which is then the only new live one. -/
theorem SameLiveStack.push (h : SameLiveStack s stack') (hroom : s.stackFull = false) (v : Word) :
    SameLiveStack (s.push v) ({ s with stack := stack' }.push v).stack := by
  intro k hk
  rw [State.push_depth s v hroom] at hk
  rw [State.push_stack_getElem, State.push_stack_getElem]
  by_cases hslot : k.val = s.SP.val
  · rw [if_pos hslot, if_pos hslot]
  · rw [if_neg hslot, if_neg hslot]
    exact h k (by omega)

/-- The top of a live stack is a live entry. -/
theorem SameLiveStack.top (h : SameLiveStack s stack') (hlive : s.stackEmpty = false) :
    State.top { s with stack := stack' } = s.top := by
  have hpos := (State.stackEmpty_eq_false s).mp hlive
  have hlt := s.SP.isLt
  rw [State.top_eq_getElem, State.top_eq_getElem]
  exact h ⟨s.SP.val - 1, by omega⟩ (Nat.sub_lt hpos one_pos)

theorem SameLiveStack.pop (h : SameLiveStack s stack') (hlive : s.stackEmpty = false) : SameLiveStack s.pop stack' := by
  intro k hk
  rw [State.pop_depth s hlive] at hk
  exact h k (by omega)

/-- Whatever an instruction does, it does beside another stack with the same live entries, and keeps them the same. -/
theorem exec_of_sameLiveStack {i : Instr} (h : SameLiveStack s stack') (hexec : exec i s = .next t) :
    ∃ stack'', exec i { s with stack := stack' } = .next { t with stack := stack'' } ∧ SameLiveStack t stack'' := by
  cases i with
  | call nnn =>
    cases hfull : s.stackFull with
    | false =>
      cases (exec_call_of_not_full s nnn hfull).symm.trans hexec
      exact ⟨_, exec_call_of_not_full { s with stack := stack' } nnn hfull, h.push hfull s.PC⟩
    | true =>
      cases (exec_call_of_full s nnn hfull).symm.trans hexec
      exact ⟨stack', exec_call_of_full { s with stack := stack' } nnn hfull, h⟩
  | ret =>
    cases hempty : s.stackEmpty with
    | false =>
      cases (exec_ret_of_not_empty s hempty).symm.trans hexec
      refine ⟨stack', ?_, h.pop hempty⟩
      rw [exec_ret_of_not_empty { s with stack := stack' } hempty, h.top hempty]
      rfl
    | true =>
      cases (exec_ret_of_empty s hempty).symm.trans hexec
      exact ⟨stack', exec_ret_of_empty { s with stack := stack' } hempty, h⟩
  | _ =>
    obtain ⟨hstack, hSP⟩ := exec_keeps_stack rfl hexec
    refine ⟨stack', exec_withStack rfl stack' hexec, fun k hk => ?_⟩
    rw [hSP] at hk
    rw [hstack]
    exact h k hk

/-- The same of a whole step: only an instruction can use the stack. -/
theorem step_of_sameLiveStack (h : SameLiveStack s stack') (hstep : step s = .next t) :
    ∃ stack'', step { s with stack := stack' } = .next { t with stack := stack'' } ∧ SameLiveStack t stack'' := by
  rcases step_cases s with ⟨hrun, hs⟩ | ⟨hrun, x, hawait, hs⟩ | ⟨hrun, hawait, a, hfetch, hs⟩ |
    ⟨hrun, hawait, hfetch, i, hdecode, hs⟩ | ⟨hrun, hawait, hfetch, e, hdecode, hs⟩
  · cases hs.symm.trans hstep
    exact ⟨stack', step_of_not_running (s := { s with stack := stack' }) hrun, h⟩
  · cases hs.symm.trans hstep
    obtain ⟨hstack, hSP⟩ := awaitStep_keeps_stack (s.raise .none) x
    refine ⟨stack', ?_, fun k hk => ?_⟩
    · rw [step_of_awaiting (s := { s with stack := stack' }) hrun hawait]
      exact congrArg _ (awaitStep_withStack (s.raise .none) x stack')
    · rw [hSP] at hk
      rw [hstack]
      exact h k hk
  · cases hs.symm.trans hstep
    obtain ⟨hpc, rfl⟩ := State.fetchError_eq_some.mp hfetch
    exact ⟨stack', step_of_fetchError (s := { s with stack := stack' }) hrun hawait hpc, h⟩
  · have hready : ReadyToFetch { s with stack := stack' } := readyToFetch_iff.mpr ⟨hrun, hawait, hfetch⟩
    rw [step_eq_exec_fetched hready hdecode]
    exact exec_of_sameLiveStack (s := s.fetched) h (hs.symm.trans hstep)
  · cases hs.symm.trans hstep
    have hready : ReadyToFetch { s with stack := stack' } := readyToFetch_iff.mpr ⟨hrun, hawait, hfetch⟩
    exact ⟨stack', unknownOpcodeIsNoOp _ hready (decodeWord_eq_error hdecode).2, h⟩

end DeadSlots

/-- Settles O16: a step from a state with the same live entries, and what it leaves of them. -/
theorem deadStackEntriesAreUnobservable : Obligations.DeadStackEntriesAreUnobservable := by
  intro s t stack' hsame hstep
  obtain ⟨stack'', hstep', hlive⟩ := step_of_sameLiveStack hsame hstep
  exact ⟨{ t with stack := stack'' }, hstep', rfl, hlive⟩

end Sys2Proof.Machine
end

section
/-! The legal states (Safety.lean) are kept by every step and every host command. -/

namespace Sys2Proof.Machine

variable {s t : State}

/-! ## Updates that keep a state legal -/

/-- `Legal` speaks of memory, the parameters, the stack and its depth, the sub-state with its edges, and PC. -/
theorem Legal.of_same_items (hs : Legal s) (hmem : t.mem = s.mem) (hcfg : t.cfg = s.cfg) (hSP : t.SP = s.SP)
    (hstack : t.stack = s.stack) (hawait : t.await = s.await) (hkedge : t.kedge = s.kedge) (hPC : t.PC = s.PC) :
    Legal t := by
  have hread := State.readByte_congr hmem hcfg
  constructor
  case memory => rw [hmem, hcfg]; exact hs.memory
  case depth => rw [hSP, hcfg]; exact hs.depth
  case absentSlots => rw [hstack, hcfg]; exact hs.absentSlots
  case awaiting =>
    rw [hawait, State.fetchError, State.fetchWord, hread, hread, hPC]
    exact hs.awaiting
  case edges => rw [hawait, hkedge]; exact hs.edges

/-- Outside the sub-state PC is free. -/
theorem Legal.of_not_awaiting (hs : Legal s) (hmem : Memory.wf t.cfg t.mem = true) (hcfg : t.cfg = s.cfg) (hSP : t.SP = s.SP)
    (hstack : t.stack = s.stack) (hawait : t.await = none) (hkedge : ∀ k : Fin 16, t.kedge[k] = false) : Legal t where
  memory := hmem
  depth := by rw [hSP, hcfg]; exact hs.depth
  absentSlots := by rw [hstack, hcfg]; exact hs.absentSlots
  awaiting := fun x hx => absurd (hawait.symm.trans hx) (by simp)
  edges := fun _ => hkedge

/-- Power-on is legal: nothing is listed in memory, the stack is empty and no key is awaited. -/
theorem legal_powerOn (c : Config) : Legal (State.powerOn c) where
  memory := rfl
  depth := Nat.zero_le _
  absentSlots := fun k _ => by simp [State.powerOn]
  awaiting := fun x hx => nomatch hx
  edges := fun _ k => by simp [State.powerOn]

/-- Settles O14; reset is power-on at the reference configuration. -/
theorem powerOnIsLegal : Obligations.PowerOnIsLegal := ⟨legal_powerOn, legal_powerOn Config.reference⟩

theorem Legal.raise (hs : Legal s) (d : Diag) : Legal (s.raise d) := hs.of_same_items rfl rfl rfl rfl rfl rfl rfl

theorem Legal.withoutDiag (hs : Legal s) : Legal s.withoutDiag := hs.raise .none

/-! ## Steps -/

/-- A call below the capacity pushes one more entry, below the slots that the block does not have. -/
theorem Legal.call (hs : Legal s) (hawait : s.await = none) (hroom : s.stackFull = false) (v pc : Word) :
    Legal ((s.push v).setPC pc) where
  memory := hs.memory
  depth := by
    have hbelow := (State.stackFull_eq_false s).mp hroom
    have hdepth : ((s.push v).setPC pc).SP.val = s.SP.val + 1 := State.push_depth s v hroom
    rw [hdepth]
    exact hbelow
  absentSlots := by
    intro k hk
    have hbelow := (State.stackFull_eq_false s).mp hroom
    have hne : k.val ≠ s.SP.val := (hbelow.trans_le hk).ne'
    exact (State.push_stack_getElem s v k).trans ((if_neg hne).trans (hs.absentSlots k hk))
  awaiting := fun x hx => absurd (hawait.symm.trans hx) (by simp)
  edges := hs.edges

theorem Legal.ret (hs : Legal s) (hawait : s.await = none) (hlive : s.stackEmpty = false) (pc : Word) :
    Legal (s.pop.setPC pc) where
  memory := hs.memory
  depth := by
    have hdepth : (s.pop.setPC pc).SP.val = s.SP.val - 1 := State.pop_depth s hlive
    rw [hdepth]
    exact (Nat.sub_le _ _).trans hs.depth
  absentSlots := hs.absentSlots
  awaiting := fun x hx => absurd (hawait.symm.trans hx) (by simp)
  edges := hs.edges

/-- FX0A goes back to its own address, where the fetch that read it reads it again. -/
theorem Legal.await {x : RegSel} (hs : Legal s) (hfetch : s.fetchError = none)
    (hdecode : decodeWord s.fetchWord = .ok (.ldVxK x)) : Legal ((s.fetched.enterAwait x).setPC (s.fetched.PC - 2)) := by
  have hPC : ((s.fetched.enterAwait x).setPC (s.fetched.PC - 2)).PC = s.PC := State.fetched_instrAddr s
  have hread := sameMemory_of_eq (s := s) (t := (s.fetched.enterAwait x).setPC (s.fetched.PC - 2)) rfl rfl
  refine ⟨hs.memory, hs.depth, hs.absentSlots, fun y hy => ?_, fun h => nomatch h⟩
  obtain rfl : x = y := Option.some.inj hy
  rw [State.fetchError, State.fetchWord, hread, hread, hPC]
  exact ⟨hfetch, hdecode⟩

/-- What a fetched instruction answers is legal, by its effect. -/
theorem Effect.keeps_legal {i : Instr} (hs : Legal s) (hawait : s.await = none) (hfetch : s.fetchError = none)
    (hdecode : decodeWord s.fetchWord = .ok i) (heffect : Effect s.fetched i t) : Legal t := by
  have hkedge : ∀ k : Fin 16, s.fetched.kedge[k] = false := hs.edges hawait
  have hfetched : Legal s.fetched := hs.of_not_awaiting hs.memory rfl rfl rfl hawait hkedge
  cases heffect with
  | call nnn hroom => exact hfetched.call hawait hroom _ _
  | ret hlive => exact hfetched.ret hawait hlive _
  | await x => exact hs.await hfetch hdecode
  | store vs hi hfits => exact hs.of_not_awaiting (Memory.wf_writeBytes vs hs.memory hfits) rfl rfl rfl hawait hkedge
  | _ => exact hs.of_not_awaiting hs.memory rfl rfl rfl hawait hkedge

/-- The completion test leaves the sub-state or changes nothing. -/
theorem Legal.awaitStep (hs : Legal s) (x : RegSel) : Legal (s.awaitStep x) := by
  rcases State.awaitStep_cases s x with ⟨-, h⟩ | ⟨k, -, h⟩
  · rw [h]
    exact hs
  · rw [h]
    exact hs.of_not_awaiting hs.memory rfl rfl rfl rfl (by simp)

/-- Settles O12, by the cases of a step and the effect of the instruction it runs. -/
theorem stepKeepsLegalStates : Obligations.StepKeepsLegalStates := by
  intro s t hs hstep
  rcases step_cases s with ⟨-, h⟩ | ⟨-, x, -, h⟩ | ⟨-, -, a, -, h⟩ |
    ⟨-, hawait, hfetch, i, hdecode, h⟩ | ⟨-, hawait, -, e, -, h⟩
  · cases h.symm.trans hstep
    exact hs.raise .none
  · cases h.symm.trans hstep
    exact (hs.raise .none).awaitStep x
  · cases h.symm.trans hstep
    exact hs.raise _
  · exact Effect.keeps_legal hs hawait hfetch hdecode (Effect.of_exec (h.symm.trans hstep))
  · cases h.symm.trans hstep
    exact hs.of_not_awaiting hs.memory rfl rfl rfl hawait (hs.edges hawait)

/-! ## Host commands -/

theorem Legal.tickTimers (hs : Legal s) : Legal (tickTimers s) := by
  by_cases hrun : s.run = .running
  · rw [tickTimers_of_running hrun]
    exact hs.of_same_items rfl rfl rfl rfl rfl rfl rfl
  · rw [tickTimers_of_not_running hrun]
    exact hs

/-- A press outside the sub-state records no edge. -/
theorem Legal.setKey (hs : Legal s) (k : Nibble) (p : Bool) : Legal (setKey k p s) where
  memory := hs.memory
  depth := hs.depth
  absentSlots := hs.absentSlots
  awaiting := hs.awaiting
  edges := by
    intro hawait j
    have hnone : s.await = none := hawait
    rw [setKey_kedge_getElem, hs.edges hnone j, State.recordsEdge, hnone]
    simp

theorem Legal.loadImage (hs : Legal s) {bytes : List Byte} (hlen : bytes.length ≤ maxImage) : Legal (s.loadImage bytes) where
  memory := wf_loadImage hs.memory hlen
  depth := Nat.zero_le _
  absentSlots := fun k _ => by simp [State.loadImage]
  awaiting := fun x hx => nomatch hx
  edges := fun _ k => by simp [State.loadImage]

theorem Legal.load (hs : Legal s) {src : ByteSource} {r : LoadResult} (h : load src s = .next (t, r)) : Legal t := by
  rcases load_cases src s with ⟨-, hl⟩ | ⟨_, -, -, hl⟩ | ⟨_, -, -, -, hl⟩ | ⟨bytes, -, hlen, -, hl⟩
  · cases hl.symm.trans h
    exact hs
  · cases hl.symm.trans h
    exact hs
  · cases hl.symm.trans h
  · cases hl.symm.trans h
    exact hs.loadImage hlen

/-- Every host command keeps the legal states. -/
theorem Legal.runCommand {c : Command} {r : CommandResult} (hs : Legal s) (h : runCommand c s = .next (t, r)) : Legal t := by
  rcases runCommand_cases h with ⟨u, -, hstep, rfl, -⟩ | ⟨src, u, q, -, hload, rfl, -⟩ |
    ⟨-, ⟨k, p, -, rfl⟩ | ⟨-, rfl⟩ | ⟨-, rfl⟩ | ⟨-, rfl⟩ | ⟨-, rfl⟩⟩
  · exact (stepKeepsLegalStates s u hs hstep).withoutDiag
  · exact (hs.load hload).withoutDiag
  · exact (hs.setKey k p).withoutDiag
  · exact hs.tickTimers.withoutDiag
  · rw [requestPause_eq]
    exact hs.of_same_items rfl rfl rfl rfl rfl rfl rfl
  · rw [requestResume_eq]
    exact hs.of_same_items rfl rfl rfl rfl rfl rfl rfl
  · rw [requestQuit_eq]
    exact hs.of_same_items rfl rfl rfl rfl rfl rfl rfl

/-- Settles O13: what every command keeps, every sequence keeps. -/
theorem commandSequencesKeepLegalStates : Obligations.CommandSequencesKeepLegalStates := fun _ _ _ hs h =>
  applyCommands_invariant (fun _ _ _ _ hlegal hc => Legal.runCommand hlegal hc) hs h

end Sys2Proof.Machine
end

section
/-! The statements on DXYN (spec 44_display.md R201, R202): the mask of the statements is what the loop of the blitter covers. -/

namespace Sys2Proof.Machine

/-- What the sprite of a DXYN covers, in the terms of the blitter's loop. -/
def State.covers (s : State) (x y : RegSel) (n : Nibble) (yy xx : Nat) : Bool :=
  spriteCovers (fun r => s.readByte (s.I.toNat + r)) (s.drawX x) (s.drawY y) (s.drawCount y n) yy xx

section Covers

variable (s : State) (x y : RegSel) (n : Nibble)

/-- The rows drawn stay on the screen (decision D18). -/
theorem drawY_add_drawCount_le : s.drawY y + s.drawCount y n ≤ 32 := by
  simp only [State.drawCount, State.drawY, screenH]
  omega

/-- On the screen the statements' mask is what the loop covers. -/
theorem covers_eq_spriteMask {xx : Nat} (yy : Nat) (hx : xx < 64) : s.covers x y n yy xx = spriteMask s x y n yy xx := by
  rw [State.covers, spriteCovers, rowCovers, decide_eq_true hx, Bool.and_true, ← Bool.and_assoc, ← Bool.and_assoc]
  rfl

/-- A covered pixel lies on the screen. -/
theorem lt_of_covers {yy xx : Nat} (h : s.covers x y n yy xx = true) : yy < 32 ∧ xx < 64 := by
  have hrows := drawY_add_drawCount_le s y n
  simp only [State.covers, spriteCovers, rowCovers, Bool.and_eq_true, decide_eq_true_eq] at h
  omega

/-- The collision flag of a draw, in the words of the statements. -/
theorem drawResult_collision : (s.drawResult x y n).2 = true ↔
    ∃ yy xx, yy < 32 ∧ xx < 64 ∧ spriteMask s x y n yy xx = true ∧ Display.pixel s.disp yy xx = true := by
  refine (drawRows_collision _ _ _ _ (drawY_add_drawCount_le s y n) s.disp).trans ⟨?_, ?_⟩
  · rintro ⟨yy, xx, hcovers, hon⟩
    obtain ⟨hy, hx⟩ := lt_of_covers s x y n hcovers
    exact ⟨yy, xx, hy, hx, (covers_eq_spriteMask s x y n yy hx).symm.trans hcovers, hon⟩
  · rintro ⟨yy, xx, -, hx, hmask, hon⟩
    exact ⟨yy, xx, (covers_eq_spriteMask s x y n yy hx).trans hmask, hon⟩

/-- The pixels after a draw. -/
theorem drawResult_pixel {xx : Nat} (yy : Nat) (hx : xx < 64) :
    Display.pixel (s.drawResult x y n).1 yy xx = (Display.pixel s.disp yy xx ^^ spriteMask s x y n yy xx) := by
  rw [← covers_eq_spriteMask s x y n yy hx]
  exact drawRows_pixel _ _ _ _ (drawY_add_drawCount_le s y n) s.disp yy xx

end Covers

/-- Settles O42, by whether the rows drawn lie in memory. -/
theorem drawIsXorWithCollisionFlag : Obligations.DrawIsXorWithCollisionFlag := by
  refine fun x y n s => ⟨fun hfits => ?_, fun hpos hpast => ?_⟩
  · have hflag := State.reg_setReg_self (s.setDisp (s.drawResult x y n).1) vf (flagByte (s.drawResult x y n).2)
    refine ⟨_, exec_drw_of_fits (rangeError_eq_none.mpr hfits), fun yy xx _ hx => drawResult_pixel s x y n yy hx,
      fun hcollision => ?_, fun hnone => ?_, fun k hk => State.reg_setReg_of_ne (s.setDisp _) _ hk,
      sameMemory_of_eq rfl rfl, rfl⟩
    · rw [(drawResult_collision s x y n).mpr hcollision] at hflag ⊢
      exact hflag
    · rw [Bool.eq_false_of_not_eq_true (mt (drawResult_collision s x y n).mp hnone)] at hflag ⊢
      exact hflag
  · exact exec_drw_of_rangeError (rangeError_of_past hpos hpast)

/-- The mask of a DXYN depends on VX, VY, I and memory only. -/
theorem spriteMask_congr {s t : State} {x y : RegSel} (n : Nibble) (hx : t.reg x = s.reg x) (hy : t.reg y = s.reg y)
    (hI : t.I = s.I) (hmem : SameMemory s t) : spriteMask t x y n = spriteMask s x y n := by
  funext yy xx
  rw [spriteMask, spriteMask, spriteRows, spriteRows, hx, hy, hI, hmem]

/-- Settles O43: the first draw leaves VX, VY, I and memory, so the second XORs the same mask; without a collision each covered pixel
is on after the first. -/
theorem drawTwiceRestoresTheDisplay : Obligations.DrawTwiceRestoresTheDisplay := by
  intro x y n s t hxF hyF hfits hdraw
  obtain ⟨t', hdraw', hpixel, hcollision, -, hregs, hmem, hframe⟩ := (drawIsXorWithCollisionFlag x y n s).1 hfits
  obtain rfl : t' = t := Host.Outcome.next.inj (hdraw'.symm.trans hdraw)
  have hI : t'.I = s.I := by rw [hframe]
  have hrows : spriteRows t' y n = spriteRows s y n := by rw [spriteRows, spriteRows, hregs y hyF]
  have hmask : spriteMask t' x y n = spriteMask s x y n := spriteMask_congr n (hregs x hxF) (hregs y hyF) hI hmem
  obtain ⟨u, hagain, hpixel', hcollision', -⟩ := (drawIsXorWithCollisionFlag x y n t').1 (by rw [hrows, hI]; exact hfits)
  refine ⟨u, hagain, Display.ext_pixel fun yy xx hy hx => ?_, fun hVF => ?_⟩
  · rw [hpixel' yy xx hy hx, hpixel yy xx hy hx, hmask, Bool.xor_assoc, Bool.xor_self, Bool.xor_false]
  · rintro ⟨yy, xx, hy, hx, hcovered⟩
    have hoff : Display.pixel s.disp yy xx = false := by
      refine Bool.eq_false_of_not_eq_true fun hon => ?_
      have hone := hcollision ⟨yy, xx, hy, hx, hcovered, hon⟩
      exact absurd (hone.symm.trans hVF) (by decide)
    refine hcollision' ⟨yy, xx, hy, hx, hmask ▸ hcovered, ?_⟩
    rw [hpixel yy xx hy hx, hoff, hcovered, Bool.false_xor]

end Sys2Proof.Machine
end
